-- ==== Sys2Proof/Word.lean ====
section
/-!
DEFINITION. The word types of the machine: registers, guest addresses and the pc are 64-bit
vectors (spec/00_scope.md R8, R11), a memory unit is an 8-bit byte (20_memory.md R50), an
instruction is one 32-bit word (30_encoding.md R91), a register index is a 5-bit field (R92).
-/

namespace Sys2Proof

/-- A register value, a guest address or a pc: `XLEN = 64` bits (R8, R11). -/
abbrev Word := BitVec 64

/-- The unit of addressing (R50). -/
abbrev Byte := BitVec 8

/-- A raw instruction word: `ILEN = 32` bits (R8, R91). -/
abbrev InstrWord := BitVec 32

/-- A register index: always a 5-bit field, so always in `[0, 31]` (R92). -/
abbrev RegIdx := BitVec 5

end Sys2Proof
end

