-- ==== Sys2Proof/Machine/Bits.lean ====
section
/-!
DEFINITION. Sign and zero extension (spec/00_scope.md R12) and byte order (20_memory.md R56, R57):
the bit-level helpers that the decoder and the machine share.
-/

namespace Sys2Proof

/-- `sext_N(v)` of R12: the `N`-bit two's-complement value `v` as a 64-bit vector. -/
def sext {n : Nat} (v : BitVec n) : Word := v.signExtend 64

/-- `zext_N(v)` of R12: the 64-bit vector with `u`-reading `v`. -/
def zext {n : Nat} (v : BitVec n) : Word := v.setWidth 64

/-- `v[31:0]`, the low half that the W instructions compute on (42_integer_register.md section 2). -/
def lowHalf (v : Word) : BitVec 32 := v.extractLsb' 0 32

/-- `v[8k+7 : 8k]`, the byte that lies at offset `k` of a little-endian store of `v` (R59). -/
def byteOf (v : Word) (k : Nat) : Byte := v.extractLsb' (8 * k) 8

/-- The word whose bits 7:0 are the byte at the lowest address (R57). -/
def wordOfBytes (b0 b1 b2 b3 : Byte) : InstrWord := b3 ++ b2 ++ b1 ++ b0

end Sys2Proof
end

