-- ==== Sys2Proof/Syntax.lean ====
section
/-!
DEFINITION. The decoded instruction (spec/30_encoding.md R105): one constructor for each of the
50 rows of R110 and of opcode_table.json, in the table's order, and the two errors a decoder can
return (R107, R108). Register indices are 5-bit fields (R92); an immediate is the 64-bit value
the decoder produces, "already sign-extended" (R99 to R103); a shift amount is the raw 6- or
5-bit field (R104).
-/

namespace Sys2Proof

/-- The instructions of R110. -/
inductive Instr where
  -- loads (41_loads.md): destination, base, immI
  | lb (rd rs1 : RegIdx) (imm : Word)
  | lh (rd rs1 : RegIdx) (imm : Word)
  | lw (rd rs1 : RegIdx) (imm : Word)
  | ld (rd rs1 : RegIdx) (imm : Word)
  | lbu (rd rs1 : RegIdx) (imm : Word)
  | lhu (rd rs1 : RegIdx) (imm : Word)
  | lwu (rd rs1 : RegIdx) (imm : Word)
  -- register-register (42_integer_register.md)
  | add (rd rs1 rs2 : RegIdx)
  | sub (rd rs1 rs2 : RegIdx)
  | sll (rd rs1 rs2 : RegIdx)
  | slt (rd rs1 rs2 : RegIdx)
  | sltu (rd rs1 rs2 : RegIdx)
  | xor (rd rs1 rs2 : RegIdx)
  | srl (rd rs1 rs2 : RegIdx)
  | sra (rd rs1 rs2 : RegIdx)
  | or (rd rs1 rs2 : RegIdx)
  | and (rd rs1 rs2 : RegIdx)
  | addw (rd rs1 rs2 : RegIdx)
  | subw (rd rs1 rs2 : RegIdx)
  | sllw (rd rs1 rs2 : RegIdx)
  | srlw (rd rs1 rs2 : RegIdx)
  | sraw (rd rs1 rs2 : RegIdx)
  -- register-immediate (43_integer_immediate.md): immI, or a shift amount
  | addi (rd rs1 : RegIdx) (imm : Word)
  | slti (rd rs1 : RegIdx) (imm : Word)
  | sltiu (rd rs1 : RegIdx) (imm : Word)
  | xori (rd rs1 : RegIdx) (imm : Word)
  | ori (rd rs1 : RegIdx) (imm : Word)
  | andi (rd rs1 : RegIdx) (imm : Word)
  | slli (rd rs1 : RegIdx) (shamt : BitVec 6)
  | srli (rd rs1 : RegIdx) (shamt : BitVec 6)
  | srai (rd rs1 : RegIdx) (shamt : BitVec 6)
  | addiw (rd rs1 : RegIdx) (imm : Word)
  | slliw (rd rs1 : RegIdx) (shamt : BitVec 5)
  | srliw (rd rs1 : RegIdx) (shamt : BitVec 5)
  | sraiw (rd rs1 : RegIdx) (shamt : BitVec 5)
  -- stores (44_stores.md): base, data, immS
  | sb (rs1 rs2 : RegIdx) (imm : Word)
  | sh (rs1 rs2 : RegIdx) (imm : Word)
  | sw (rs1 rs2 : RegIdx) (imm : Word)
  | sd (rs1 rs2 : RegIdx) (imm : Word)
  -- conditional branches (45_branches.md): immB
  | beq (rs1 rs2 : RegIdx) (imm : Word)
  | bne (rs1 rs2 : RegIdx) (imm : Word)
  | blt (rs1 rs2 : RegIdx) (imm : Word)
  | bge (rs1 rs2 : RegIdx) (imm : Word)
  | bltu (rs1 rs2 : RegIdx) (imm : Word)
  | bgeu (rs1 rs2 : RegIdx) (imm : Word)
  -- jumps (46_jumps.md): immJ; base and immI
  | jal (rd : RegIdx) (imm : Word)
  | jalr (rd rs1 : RegIdx) (imm : Word)
  -- upper immediates (47_upper_immediate.md): immU
  | lui (rd : RegIdx) (imm : Word)
  | auipc (rd : RegIdx) (imm : Word)
  -- FENCE (48_fence_system.md R300): its five ignored fields are kept, so that no bit of the
  -- word is lost; its meaning reads none of them
  | fence (fm pred succ : BitVec 4) (rs1 rd : RegIdx)
  deriving DecidableEq, Repr

/-- What the decoder answers for a word that is no instruction (R90, R111). Both errors stop the
hart (60_exceptions.md R321, R322), which is what the spec says of them: safe. -/
inductive DecodeError where
  /-- `word[6:0]` is none of the twelve opcodes of R106 (R107). -/
  | unsupportedOpcode (opcode : BitVec 7)
  /-- The opcode is supported but the word matches no row of R110; the payload is the raw bits
  `word[6:0]`, `word[14:12]`, `word[31:25]` whatever the format (R108). -/
  | unsupportedFunct (opcode : BitVec 7) (funct3 : BitVec 3) (funct7 : BitVec 7)
  deriving DecidableEq, Repr

end Sys2Proof
end

