-- ==== Sys2Proof/WellFormed.lean ====
section
/-!
DEFINITION. Which decoded instructions have an encoding. The operand types already bound register
indices and shift amounts, so what is left to check is the immediate: it must be a value its
format can produce (spec/30_encoding.md R99 to R103).
-/

namespace Sys2Proof

/-- `imm` is an I- or S-immediate: the sign extension of its own low 12 bits, so in
`-2048 .. 2047` (R99, R100). -/
def immFits12 (imm : Word) : Bool := (imm.setWidth 12).signExtend 64 == imm

/-- `imm` is a B-immediate: it fits 13 bits, and bit 0 is 0, so it is an even value in
`-4096 .. 4094` (R101). -/
def immFitsBranch (imm : Word) : Bool := (imm.setWidth 13).signExtend 64 == imm && !imm.getLsbD 0

/-- `imm` is a U-immediate: the sign extension of its own low 32 bits, the low 12 of which are
0 (R102). -/
def immFitsUpper (imm : Word) : Bool :=
  (imm.setWidth 32).signExtend 64 == imm && imm.setWidth 12 == 0

/-- `imm` is a J-immediate: it fits 21 bits, and bit 0 is 0, so it is an even value in
`-1048576 .. 1048574` (R103). -/
def immFitsJump (imm : Word) : Bool := (imm.setWidth 21).signExtend 64 == imm && !imm.getLsbD 0

/-- The instruction has an encoding. -/
def Instr.wf : Instr → Bool
  | .lb _ _ imm => immFits12 imm
  | .lh _ _ imm => immFits12 imm
  | .lw _ _ imm => immFits12 imm
  | .ld _ _ imm => immFits12 imm
  | .lbu _ _ imm => immFits12 imm
  | .lhu _ _ imm => immFits12 imm
  | .lwu _ _ imm => immFits12 imm
  | .add _ _ _ => true
  | .sub _ _ _ => true
  | .sll _ _ _ => true
  | .slt _ _ _ => true
  | .sltu _ _ _ => true
  | .xor _ _ _ => true
  | .srl _ _ _ => true
  | .sra _ _ _ => true
  | .or _ _ _ => true
  | .and _ _ _ => true
  | .addw _ _ _ => true
  | .subw _ _ _ => true
  | .sllw _ _ _ => true
  | .srlw _ _ _ => true
  | .sraw _ _ _ => true
  | .addi _ _ imm => immFits12 imm
  | .slti _ _ imm => immFits12 imm
  | .sltiu _ _ imm => immFits12 imm
  | .xori _ _ imm => immFits12 imm
  | .ori _ _ imm => immFits12 imm
  | .andi _ _ imm => immFits12 imm
  | .slli _ _ _ => true
  | .srli _ _ _ => true
  | .srai _ _ _ => true
  | .addiw _ _ imm => immFits12 imm
  | .slliw _ _ _ => true
  | .srliw _ _ _ => true
  | .sraiw _ _ _ => true
  | .sb _ _ imm => immFits12 imm
  | .sh _ _ imm => immFits12 imm
  | .sw _ _ imm => immFits12 imm
  | .sd _ _ imm => immFits12 imm
  | .beq _ _ imm => immFitsBranch imm
  | .bne _ _ imm => immFitsBranch imm
  | .blt _ _ imm => immFitsBranch imm
  | .bge _ _ imm => immFitsBranch imm
  | .bltu _ _ imm => immFitsBranch imm
  | .bgeu _ _ imm => immFitsBranch imm
  | .jal _ imm => immFitsJump imm
  | .jalr _ _ imm => immFits12 imm
  | .lui _ imm => immFitsUpper imm
  | .auipc _ imm => immFitsUpper imm
  | .fence _ _ _ _ _ => true

end Sys2Proof
end

