-- ==== Sys2Proof/Decode.lean ====
section
/-!
DEFINITION. The Instruction Decoder (spec/30_encoding.md R90 to R109): a pure function from a
32-bit word to an instruction or a decode error, total on every word, and after it the encoder
written from the same formats (R93 to R98) and the opcode map of R110 as data.
-/

namespace Sys2Proof

/-! ### Fields (R92, R104) -/

/-- `word[6:0]` (R92). -/
def opcodeOf (w : InstrWord) : BitVec 7 := w.extractLsb' 0 7

/-- `word[11:7]` (R92). -/
def rdOf (w : InstrWord) : RegIdx := w.extractLsb' 7 5

/-- `word[14:12]` (R92). -/
def funct3Of (w : InstrWord) : BitVec 3 := w.extractLsb' 12 3

/-- `word[19:15]` (R92). -/
def rs1Of (w : InstrWord) : RegIdx := w.extractLsb' 15 5

/-- `word[24:20]` (R92). -/
def rs2Of (w : InstrWord) : RegIdx := w.extractLsb' 20 5

/-- `word[31:25]` (R92). -/
def funct7Of (w : InstrWord) : BitVec 7 := w.extractLsb' 25 7

/-- `word[31:26]`, the function code of SLLI, SRLI and SRAI (R104). -/
def funct6Of (w : InstrWord) : BitVec 6 := w.extractLsb' 26 6

/-- `word[25:20]`, the shift amount of SLLI, SRLI and SRAI (R104). -/
def shamt6Of (w : InstrWord) : BitVec 6 := w.extractLsb' 20 6

/-- `word[24:20]`, the shift amount of SLLIW, SRLIW and SRAIW (R104). -/
def shamt5Of (w : InstrWord) : BitVec 5 := w.extractLsb' 20 5

/-! ### Immediates (R99 to R103) -/

/-- R99. -/
def immIOf (w : InstrWord) : Word := sext (w.extractLsb' 20 12)

/-- R100: `word[31:25]` is the high piece. -/
def immSOf (w : InstrWord) : Word := sext (w.extractLsb' 25 7 ++ w.extractLsb' 7 5)

/-- R101. -/
def immBOf (w : InstrWord) : Word :=
  sext (w.extractLsb' 31 1 ++ w.extractLsb' 7 1 ++ w.extractLsb' 25 6 ++ w.extractLsb' 8 4 ++ 0#1)

/-- R102, read as 90_conflicts.md C1 resolves it: sign-extended to 64 bits from bit 31. -/
def immUOf (w : InstrWord) : Word := sext (w.extractLsb' 12 20 ++ 0#12)

/-- R103. -/
def immJOf (w : InstrWord) : Word :=
  sext (w.extractLsb' 31 1 ++ w.extractLsb' 12 8 ++ w.extractLsb' 20 1 ++ w.extractLsb' 21 10
    ++ 0#1)

/-! ### Decoding -/

/-- The error of stage 2 (R108): raw bits at the common positions, whatever the format. -/
def unsupportedFunctOf (w : InstrWord) : DecodeError :=
  .unsupportedFunct (opcodeOf w) (funct3Of w) (funct7Of w)

/-- Opcode `0x03` (R110 rows 1 to 7; `funct3 = 7` is no instruction, 41_loads.md R168). -/
def decodeLoad (w : InstrWord) : Except DecodeError Instr :=
  match funct3Of w with
  | 0#3 => .ok (.lb (rdOf w) (rs1Of w) (immIOf w))
  | 1#3 => .ok (.lh (rdOf w) (rs1Of w) (immIOf w))
  | 2#3 => .ok (.lw (rdOf w) (rs1Of w) (immIOf w))
  | 3#3 => .ok (.ld (rdOf w) (rs1Of w) (immIOf w))
  | 4#3 => .ok (.lbu (rdOf w) (rs1Of w) (immIOf w))
  | 5#3 => .ok (.lhu (rdOf w) (rs1Of w) (immIOf w))
  | 6#3 => .ok (.lwu (rdOf w) (rs1Of w) (immIOf w))
  | _ => .error (unsupportedFunctOf w)

/-- Opcode `0x0F` (R110 row 50; 48_fence_system.md R300, R301). -/
def decodeMiscMem (w : InstrWord) : Except DecodeError Instr :=
  match funct3Of w with
  | 0#3 =>
    .ok (.fence (w.extractLsb' 28 4) (w.extractLsb' 24 4) (w.extractLsb' 20 4) (rs1Of w) (rdOf w))
  | _ => .error (unsupportedFunctOf w)

/-- SLLI's word within opcode `0x13`, `funct3 = 1` (R104, R110 row 29). -/
def decodeShiftLeftImm (w : InstrWord) : Except DecodeError Instr :=
  match funct6Of w with
  | 0b000000#6 => .ok (.slli (rdOf w) (rs1Of w) (shamt6Of w))
  | _ => .error (unsupportedFunctOf w)

/-- SRLI's and SRAI's words within opcode `0x13`, `funct3 = 5` (R104, R110 rows 30, 31). -/
def decodeShiftRightImm (w : InstrWord) : Except DecodeError Instr :=
  match funct6Of w with
  | 0b000000#6 => .ok (.srli (rdOf w) (rs1Of w) (shamt6Of w))
  | 0b010000#6 => .ok (.srai (rdOf w) (rs1Of w) (shamt6Of w))
  | _ => .error (unsupportedFunctOf w)

/-- Opcode `0x13` (R110 rows 23 to 31). Every value of `funct3` has an instruction; the two shift
values look further. -/
def decodeOpImm (w : InstrWord) : Except DecodeError Instr :=
  match funct3Of w with
  | 0#3 => .ok (.addi (rdOf w) (rs1Of w) (immIOf w))
  | 1#3 => decodeShiftLeftImm w
  | 2#3 => .ok (.slti (rdOf w) (rs1Of w) (immIOf w))
  | 3#3 => .ok (.sltiu (rdOf w) (rs1Of w) (immIOf w))
  | 4#3 => .ok (.xori (rdOf w) (rs1Of w) (immIOf w))
  | 5#3 => decodeShiftRightImm w
  | 6#3 => .ok (.ori (rdOf w) (rs1Of w) (immIOf w))
  | 7#3 => .ok (.andi (rdOf w) (rs1Of w) (immIOf w))
  | _ => .error (unsupportedFunctOf w)

/-- Opcode `0x1B` (R110 rows 32 to 35). -/
def decodeOpImm32 (w : InstrWord) : Except DecodeError Instr :=
  match funct3Of w with
  | 0#3 => .ok (.addiw (rdOf w) (rs1Of w) (immIOf w))
  | 1#3 =>
    match funct7Of w with
    | 0x00#7 => .ok (.slliw (rdOf w) (rs1Of w) (shamt5Of w))
    | _ => .error (unsupportedFunctOf w)
  | 5#3 =>
    match funct7Of w with
    | 0x00#7 => .ok (.srliw (rdOf w) (rs1Of w) (shamt5Of w))
    | 0x20#7 => .ok (.sraiw (rdOf w) (rs1Of w) (shamt5Of w))
    | _ => .error (unsupportedFunctOf w)
  | _ => .error (unsupportedFunctOf w)

/-- Opcode `0x23` (R110 rows 36 to 39; 44_stores.md R245). -/
def decodeStore (w : InstrWord) : Except DecodeError Instr :=
  match funct3Of w with
  | 0#3 => .ok (.sb (rs1Of w) (rs2Of w) (immSOf w))
  | 1#3 => .ok (.sh (rs1Of w) (rs2Of w) (immSOf w))
  | 2#3 => .ok (.sw (rs1Of w) (rs2Of w) (immSOf w))
  | 3#3 => .ok (.sd (rs1Of w) (rs2Of w) (immSOf w))
  | _ => .error (unsupportedFunctOf w)

/-- Opcode `0x33` with `funct7 = 0x00` (R110 rows 8, 10 to 14, 16, 17). -/
def decodeOpBase (w : InstrWord) : Except DecodeError Instr :=
  match funct3Of w with
  | 0#3 => .ok (.add (rdOf w) (rs1Of w) (rs2Of w))
  | 1#3 => .ok (.sll (rdOf w) (rs1Of w) (rs2Of w))
  | 2#3 => .ok (.slt (rdOf w) (rs1Of w) (rs2Of w))
  | 3#3 => .ok (.sltu (rdOf w) (rs1Of w) (rs2Of w))
  | 4#3 => .ok (.xor (rdOf w) (rs1Of w) (rs2Of w))
  | 5#3 => .ok (.srl (rdOf w) (rs1Of w) (rs2Of w))
  | 6#3 => .ok (.or (rdOf w) (rs1Of w) (rs2Of w))
  | 7#3 => .ok (.and (rdOf w) (rs1Of w) (rs2Of w))
  | _ => .error (unsupportedFunctOf w)

/-- Opcode `0x33` with `funct7 = 0x20` (R110 rows 9, 15). -/
def decodeOpAlt (w : InstrWord) : Except DecodeError Instr :=
  match funct3Of w with
  | 0#3 => .ok (.sub (rdOf w) (rs1Of w) (rs2Of w))
  | 5#3 => .ok (.sra (rdOf w) (rs1Of w) (rs2Of w))
  | _ => .error (unsupportedFunctOf w)

/-- Opcode `0x33` (R110 rows 8 to 17; 42_integer_register.md R196). -/
def decodeOp (w : InstrWord) : Except DecodeError Instr :=
  match funct7Of w with
  | 0x00#7 => decodeOpBase w
  | 0x20#7 => decodeOpAlt w
  | _ => .error (unsupportedFunctOf w)

/-- Opcode `0x3B` (R110 rows 18 to 22; 42_integer_register.md R196). -/
def decodeOp32 (w : InstrWord) : Except DecodeError Instr :=
  match funct7Of w with
  | 0x00#7 =>
    match funct3Of w with
    | 0#3 => .ok (.addw (rdOf w) (rs1Of w) (rs2Of w))
    | 1#3 => .ok (.sllw (rdOf w) (rs1Of w) (rs2Of w))
    | 5#3 => .ok (.srlw (rdOf w) (rs1Of w) (rs2Of w))
    | _ => .error (unsupportedFunctOf w)
  | 0x20#7 =>
    match funct3Of w with
    | 0#3 => .ok (.subw (rdOf w) (rs1Of w) (rs2Of w))
    | 5#3 => .ok (.sraw (rdOf w) (rs1Of w) (rs2Of w))
    | _ => .error (unsupportedFunctOf w)
  | _ => .error (unsupportedFunctOf w)

/-- Opcode `0x63` (R110 rows 40 to 45; 45_branches.md R267). -/
def decodeBranch (w : InstrWord) : Except DecodeError Instr :=
  match funct3Of w with
  | 0#3 => .ok (.beq (rs1Of w) (rs2Of w) (immBOf w))
  | 1#3 => .ok (.bne (rs1Of w) (rs2Of w) (immBOf w))
  | 4#3 => .ok (.blt (rs1Of w) (rs2Of w) (immBOf w))
  | 5#3 => .ok (.bge (rs1Of w) (rs2Of w) (immBOf w))
  | 6#3 => .ok (.bltu (rs1Of w) (rs2Of w) (immBOf w))
  | 7#3 => .ok (.bgeu (rs1Of w) (rs2Of w) (immBOf w))
  | _ => .error (unsupportedFunctOf w)

/-- Opcode `0x67` (R110 row 47; 46_jumps.md R282). -/
def decodeJalr (w : InstrWord) : Except DecodeError Instr :=
  match funct3Of w with
  | 0#3 => .ok (.jalr (rdOf w) (rs1Of w) (immIOf w))
  | _ => .error (unsupportedFunctOf w)

/-- `decode(word)` of R90: stage 1 looks the opcode up (R106, R107), stage 2 the function codes
(R108, R109). Opcodes `0x17`, `0x37` and `0x6F` have no function field. -/
def decode (w : InstrWord) : Except DecodeError Instr :=
  match opcodeOf w with
  | 0x03#7 => decodeLoad w
  | 0x0F#7 => decodeMiscMem w
  | 0x13#7 => decodeOpImm w
  | 0x17#7 => .ok (.auipc (rdOf w) (immUOf w))
  | 0x1B#7 => decodeOpImm32 w
  | 0x23#7 => decodeStore w
  | 0x33#7 => decodeOp w
  | 0x37#7 => .ok (.lui (rdOf w) (immUOf w))
  | 0x3B#7 => decodeOp32 w
  | 0x63#7 => decodeBranch w
  | 0x67#7 => decodeJalr w
  | 0x6F#7 => .ok (.jal (rdOf w) (immJOf w))
  | _ => .error (.unsupportedOpcode (opcodeOf w))

/-- The decoder on the four bytes of an instruction as they lie in Memory, the lowest address
first (R91; 20_memory.md R57). -/
def decodeBytes (b0 b1 b2 b3 : Byte) : Except DecodeError Instr := decode (wordOfBytes b0 b1 b2 b3)

/-- The instruction the decoder reads from an instruction whose bits are `w` in the numbering of
opcode_table.json, the bits from `nbits` up being 0 (log entry 15). -/
def decodeTableWord (nbits w : Nat) : Option Instr :=
  let bits : InstrWord := BitVec.ofNat 32 (w % 2 ^ nbits)
  (decodeBytes (bits.extractLsb' 0 8) (bits.extractLsb' 8 8) (bits.extractLsb' 16 8)
    (bits.extractLsb' 24 8)).toOption

/-! ### Encoding (R93 to R98) -/

/-- R93. -/
def rWord (funct7 : BitVec 7) (rs2 rs1 : RegIdx) (funct3 : BitVec 3) (rd : RegIdx)
    (opcode : BitVec 7) : InstrWord :=
  funct7 ++ rs2 ++ rs1 ++ funct3 ++ rd ++ opcode

/-- R94. -/
def iWord (imm : Word) (rs1 : RegIdx) (funct3 : BitVec 3) (rd : RegIdx) (opcode : BitVec 7) :
    InstrWord :=
  imm.extractLsb' 0 12 ++ rs1 ++ funct3 ++ rd ++ opcode

/-- The I-format with the 12-bit field split as R104 splits it for SLLI, SRLI and SRAI. -/
def shiftWord (funct6 : BitVec 6) (shamt : BitVec 6) (rs1 : RegIdx) (funct3 : BitVec 3)
    (rd : RegIdx) (opcode : BitVec 7) : InstrWord :=
  funct6 ++ shamt ++ rs1 ++ funct3 ++ rd ++ opcode

/-- R95. -/
def sWord (imm : Word) (rs2 rs1 : RegIdx) (funct3 : BitVec 3) (opcode : BitVec 7) : InstrWord :=
  imm.extractLsb' 5 7 ++ rs2 ++ rs1 ++ funct3 ++ imm.extractLsb' 0 5 ++ opcode

/-- R96. -/
def bWord (imm : Word) (rs2 rs1 : RegIdx) (funct3 : BitVec 3) (opcode : BitVec 7) : InstrWord :=
  imm.extractLsb' 12 1 ++ imm.extractLsb' 5 6 ++ rs2 ++ rs1 ++ funct3 ++ imm.extractLsb' 1 4 ++
    imm.extractLsb' 11 1 ++ opcode

/-- R97. -/
def uWord (imm : Word) (rd : RegIdx) (opcode : BitVec 7) : InstrWord :=
  imm.extractLsb' 12 20 ++ rd ++ opcode

/-- R98. -/
def jWord (imm : Word) (rd : RegIdx) (opcode : BitVec 7) : InstrWord :=
  imm.extractLsb' 20 1 ++ imm.extractLsb' 1 10 ++ imm.extractLsb' 11 1 ++ imm.extractLsb' 12 8 ++
    rd ++ opcode

/-- FENCE's fields as R300 names them. -/
def fenceWord (fm pred succ : BitVec 4) (rs1 rd : RegIdx) : InstrWord :=
  fm ++ pred ++ succ ++ rs1 ++ 0#3 ++ rd ++ 0x0F#7

/-- The word of an instruction, from R110's row of it. It is meant for well-formed instructions
(`Instr.wf`); of an immediate that no word carries it keeps the bits the format has room for. -/
def encode : Instr → InstrWord
  | .lb rd rs1 imm => iWord imm rs1 0 rd 0x03
  | .lh rd rs1 imm => iWord imm rs1 1 rd 0x03
  | .lw rd rs1 imm => iWord imm rs1 2 rd 0x03
  | .ld rd rs1 imm => iWord imm rs1 3 rd 0x03
  | .lbu rd rs1 imm => iWord imm rs1 4 rd 0x03
  | .lhu rd rs1 imm => iWord imm rs1 5 rd 0x03
  | .lwu rd rs1 imm => iWord imm rs1 6 rd 0x03
  | .add rd rs1 rs2 => rWord 0x00 rs2 rs1 0 rd 0x33
  | .sub rd rs1 rs2 => rWord 0x20 rs2 rs1 0 rd 0x33
  | .sll rd rs1 rs2 => rWord 0x00 rs2 rs1 1 rd 0x33
  | .slt rd rs1 rs2 => rWord 0x00 rs2 rs1 2 rd 0x33
  | .sltu rd rs1 rs2 => rWord 0x00 rs2 rs1 3 rd 0x33
  | .xor rd rs1 rs2 => rWord 0x00 rs2 rs1 4 rd 0x33
  | .srl rd rs1 rs2 => rWord 0x00 rs2 rs1 5 rd 0x33
  | .sra rd rs1 rs2 => rWord 0x20 rs2 rs1 5 rd 0x33
  | .or rd rs1 rs2 => rWord 0x00 rs2 rs1 6 rd 0x33
  | .and rd rs1 rs2 => rWord 0x00 rs2 rs1 7 rd 0x33
  | .addw rd rs1 rs2 => rWord 0x00 rs2 rs1 0 rd 0x3B
  | .subw rd rs1 rs2 => rWord 0x20 rs2 rs1 0 rd 0x3B
  | .sllw rd rs1 rs2 => rWord 0x00 rs2 rs1 1 rd 0x3B
  | .srlw rd rs1 rs2 => rWord 0x00 rs2 rs1 5 rd 0x3B
  | .sraw rd rs1 rs2 => rWord 0x20 rs2 rs1 5 rd 0x3B
  | .addi rd rs1 imm => iWord imm rs1 0 rd 0x13
  | .slti rd rs1 imm => iWord imm rs1 2 rd 0x13
  | .sltiu rd rs1 imm => iWord imm rs1 3 rd 0x13
  | .xori rd rs1 imm => iWord imm rs1 4 rd 0x13
  | .ori rd rs1 imm => iWord imm rs1 6 rd 0x13
  | .andi rd rs1 imm => iWord imm rs1 7 rd 0x13
  | .slli rd rs1 shamt => shiftWord 0b000000 shamt rs1 1 rd 0x13
  | .srli rd rs1 shamt => shiftWord 0b000000 shamt rs1 5 rd 0x13
  | .srai rd rs1 shamt => shiftWord 0b010000 shamt rs1 5 rd 0x13
  | .addiw rd rs1 imm => iWord imm rs1 0 rd 0x1B
  | .slliw rd rs1 shamt => rWord 0x00 shamt rs1 1 rd 0x1B
  | .srliw rd rs1 shamt => rWord 0x00 shamt rs1 5 rd 0x1B
  | .sraiw rd rs1 shamt => rWord 0x20 shamt rs1 5 rd 0x1B
  | .sb rs1 rs2 imm => sWord imm rs2 rs1 0 0x23
  | .sh rs1 rs2 imm => sWord imm rs2 rs1 1 0x23
  | .sw rs1 rs2 imm => sWord imm rs2 rs1 2 0x23
  | .sd rs1 rs2 imm => sWord imm rs2 rs1 3 0x23
  | .beq rs1 rs2 imm => bWord imm rs2 rs1 0 0x63
  | .bne rs1 rs2 imm => bWord imm rs2 rs1 1 0x63
  | .blt rs1 rs2 imm => bWord imm rs2 rs1 4 0x63
  | .bge rs1 rs2 imm => bWord imm rs2 rs1 5 0x63
  | .bltu rs1 rs2 imm => bWord imm rs2 rs1 6 0x63
  | .bgeu rs1 rs2 imm => bWord imm rs2 rs1 7 0x63
  | .jal rd imm => jWord imm rd 0x6F
  | .jalr rd rs1 imm => iWord imm rs1 0 rd 0x67
  | .lui rd imm => uWord imm rd 0x37
  | .auipc rd imm => uWord imm rd 0x17
  | .fence fm pred succ rs1 rd => fenceWord fm pred succ rs1 rd

/-! ### The opcode map as data (R110) -/

/-- One row's selecting bits: a word is the row's instruction iff `w &&& mask = bits` (R109). -/
structure RowBits where
  mask : InstrWord
  bits : InstrWord
  deriving DecidableEq, Repr

/-- The `mask` and `match` columns of R110. -/
def Instr.rowBits : Instr → RowBits
  | .lb _ _ _ => ⟨0x0000707F, 0x00000003⟩
  | .lh _ _ _ => ⟨0x0000707F, 0x00001003⟩
  | .lw _ _ _ => ⟨0x0000707F, 0x00002003⟩
  | .ld _ _ _ => ⟨0x0000707F, 0x00003003⟩
  | .lbu _ _ _ => ⟨0x0000707F, 0x00004003⟩
  | .lhu _ _ _ => ⟨0x0000707F, 0x00005003⟩
  | .lwu _ _ _ => ⟨0x0000707F, 0x00006003⟩
  | .add _ _ _ => ⟨0xFE00707F, 0x00000033⟩
  | .sub _ _ _ => ⟨0xFE00707F, 0x40000033⟩
  | .sll _ _ _ => ⟨0xFE00707F, 0x00001033⟩
  | .slt _ _ _ => ⟨0xFE00707F, 0x00002033⟩
  | .sltu _ _ _ => ⟨0xFE00707F, 0x00003033⟩
  | .xor _ _ _ => ⟨0xFE00707F, 0x00004033⟩
  | .srl _ _ _ => ⟨0xFE00707F, 0x00005033⟩
  | .sra _ _ _ => ⟨0xFE00707F, 0x40005033⟩
  | .or _ _ _ => ⟨0xFE00707F, 0x00006033⟩
  | .and _ _ _ => ⟨0xFE00707F, 0x00007033⟩
  | .addw _ _ _ => ⟨0xFE00707F, 0x0000003B⟩
  | .subw _ _ _ => ⟨0xFE00707F, 0x4000003B⟩
  | .sllw _ _ _ => ⟨0xFE00707F, 0x0000103B⟩
  | .srlw _ _ _ => ⟨0xFE00707F, 0x0000503B⟩
  | .sraw _ _ _ => ⟨0xFE00707F, 0x4000503B⟩
  | .addi _ _ _ => ⟨0x0000707F, 0x00000013⟩
  | .slti _ _ _ => ⟨0x0000707F, 0x00002013⟩
  | .sltiu _ _ _ => ⟨0x0000707F, 0x00003013⟩
  | .xori _ _ _ => ⟨0x0000707F, 0x00004013⟩
  | .ori _ _ _ => ⟨0x0000707F, 0x00006013⟩
  | .andi _ _ _ => ⟨0x0000707F, 0x00007013⟩
  | .slli _ _ _ => ⟨0xFC00707F, 0x00001013⟩
  | .srli _ _ _ => ⟨0xFC00707F, 0x00005013⟩
  | .srai _ _ _ => ⟨0xFC00707F, 0x40005013⟩
  | .addiw _ _ _ => ⟨0x0000707F, 0x0000001B⟩
  | .slliw _ _ _ => ⟨0xFE00707F, 0x0000101B⟩
  | .srliw _ _ _ => ⟨0xFE00707F, 0x0000501B⟩
  | .sraiw _ _ _ => ⟨0xFE00707F, 0x4000501B⟩
  | .sb _ _ _ => ⟨0x0000707F, 0x00000023⟩
  | .sh _ _ _ => ⟨0x0000707F, 0x00001023⟩
  | .sw _ _ _ => ⟨0x0000707F, 0x00002023⟩
  | .sd _ _ _ => ⟨0x0000707F, 0x00003023⟩
  | .beq _ _ _ => ⟨0x0000707F, 0x00000063⟩
  | .bne _ _ _ => ⟨0x0000707F, 0x00001063⟩
  | .blt _ _ _ => ⟨0x0000707F, 0x00004063⟩
  | .bge _ _ _ => ⟨0x0000707F, 0x00005063⟩
  | .bltu _ _ _ => ⟨0x0000707F, 0x00006063⟩
  | .bgeu _ _ _ => ⟨0x0000707F, 0x00007063⟩
  | .jal _ _ => ⟨0x0000007F, 0x0000006F⟩
  | .jalr _ _ _ => ⟨0x0000707F, 0x00000067⟩
  | .lui _ _ => ⟨0x0000007F, 0x00000037⟩
  | .auipc _ _ => ⟨0x0000007F, 0x00000017⟩
  | .fence _ _ _ _ _ => ⟨0x0000707F, 0x0000000F⟩

end Sys2Proof
end

