-- ==== Sys2Proof/Machine/Flags.lean ====
section
/-!
DEFINITION. The machine has no flags and no condition codes (spec/10_state.md R32): a branch
compares two registers directly and a set-if-less instruction writes 0 or 1. These are the
comparisons they use (00_scope.md R11).
-/

namespace Sys2Proof.Machine

/-- `a <s b`: the signed readings (R11). -/
def lessSigned (a b : Word) : Bool := decide (a.toInt < b.toInt)

/-- `a <u b`: the unsigned readings (R11). -/
def lessUnsigned (a b : Word) : Bool := decide (a.toNat < b.toNat)

/-- The 64-bit value 1 or 0 that a set-if-less instruction writes (42_integer_register.md R184). -/
def boolWord (c : Bool) : Word := if c then 1 else 0

end Sys2Proof.Machine
end

