-- ==== Sys2Proof/Config.lean ====
section
/-!
DEFINITION. The configuration of an emulator instance: the two parameters of the hardware that
are "supplied at emulator construction" (spec/00_scope.md R8, 10_state.md R30), and which values
of them are legal (70_reset_and_hazards.md R362, decision D7). No value of the machine is left
free by the spec, so there is no opaque constant here.
-/

namespace Sys2Proof

/-- `BASE_OFFSET` and `MEM_CAPACITY` (R8). They are parameters of the step, not state (R30). -/
structure Config where
  /-- `BASE_OFFSET`: the guest address of Memory byte 0, and the pc at reset (R8, R27). -/
  baseOffset : Word
  /-- `MEM_CAPACITY`: the number of bytes of Memory (R8). -/
  memCapacity : Nat
  deriving DecidableEq, Repr

/-- The constraints of R362: at least one byte, and every byte has a 64-bit guest address. -/
abbrev Config.Legal (c : Config) : Prop :=
  1 ≤ c.memCapacity ∧ c.baseOffset.toNat + c.memCapacity ≤ 2 ^ 64

/-- The defaults of R8: base `0x80200000`, 1 MiB. -/
def Config.default : Config := { baseOffset := 0x80200000, memCapacity := 0x100000 }

end Sys2Proof
end

