-- ==== Sys2Proof/Machine/Memory.lean ====
section
/-!
DEFINITION. The Memory component (spec/10_state.md R28, R29; 20_memory.md R56, R61): a byte array
of fixed capacity in emulator-local addressing, with its three operations `read`, `write` and
`fill_zero`. The array is held sparsely, as the list of its bytes that differ from what it was
initialised with.
-/

namespace Sys2Proof.Machine

/-- `mem[0 .. MEM_CAPACITY - 1]` of R28: pairs of an index and the byte there. An index that is
not listed holds `Memory.unlisted`. -/
abbrev Memory := List Host.Cell

/-- What an unlisted byte reads as: Memory is "zero-initialized" (R29). -/
def Memory.unlisted : Byte := 0

/-- The canonical form: indices strictly rising and inside the capacity, and no entry equal to
what an unlisted byte reads as. Equal memories are then equal lists. -/
abbrev Memory.wf (capacity : Nat) (m : Memory) : Prop :=
  m.Pairwise (fun c d => c.1 < d.1) ∧ ∀ c ∈ m, c.1 < capacity ∧ c.2 ≠ Memory.unlisted

/-- The byte `mem[i]`. -/
def Memory.readByte : Memory → Nat → Byte
  | [], _ => Memory.unlisted
  | (k, b) :: rest, i => if k = i then b else Memory.readByte rest i

/-- The list without an entry for `i`. -/
def Memory.eraseByte (m : Memory) (i : Nat) : Memory := m.filter fun c => c.1 != i

/-- The list with an entry for `i` put at its place in the rising order. -/
def Memory.insertByte : Memory → Nat → Byte → Memory
  | [], i, b => [(i, b)]
  | (k, c) :: rest, i, b =>
    if i < k then (i, b) :: (k, c) :: rest else (k, c) :: Memory.insertByte rest i b

/-- `mem[i] <- b`, keeping the canonical form. -/
def Memory.writeByte (m : Memory) (i : Nat) (b : Byte) : Memory :=
  if b = Memory.unlisted then m.eraseByte i else (m.eraseByte i).insertByte i b

/-- The unsigned little-endian reading of `n` bytes from index `i`: the sum of
`mem[i + k] * 2^(8k)` (R56, R58). -/
def Memory.readBytes (m : Memory) (i n : Nat) : Nat :=
  ((List.range n).map fun k => (m.readByte (i + k)).toNat * 2 ^ (8 * k)).sum

/-- The bytes of a list, the first at index `i`. -/
def Memory.setBytes : Memory → Nat → List Byte → Memory
  | m, _, [] => m
  | m, i, b :: bs => Memory.setBytes (m.writeByte i b) (i + 1) bs

/-- The low `n` bytes of `v` in little-endian order (R56, R59). -/
def leBytes (n : Nat) (v : Word) : List Byte := (List.range n).map (byteOf v)

/-- "all accesses must resolve to `0 <= index` and `index + width <= capacity`", in the unbounded
integers and on the whole range (R53). -/
def Memory.inRange (capacity : Nat) (index : Int) (n : Nat) : Bool :=
  decide (0 ≤ index) && decide (index + n ≤ capacity)

/-- `read(address, width)` of R61; `none` is its OutOfBounds error. -/
def Memory.read (capacity : Nat) (m : Memory) (index : Int) (n : Nat) : Option Nat :=
  if Memory.inRange capacity index n then some (m.readBytes index.toNat n) else none

/-- `write(address, width, value)` of R61; `none` is its OutOfBounds error, and nothing is
written then. -/
def Memory.write (capacity : Nat) (m : Memory) (index : Int) (n : Nat) (v : Word) :
    Option Memory :=
  if Memory.inRange capacity index n then some (m.setBytes index.toNat (leBytes n v)) else none

/-- `fill_zero(address, length)` of R61, used by the Loader only; `none` is its OutOfBounds
error. -/
def Memory.fillZero (capacity : Nat) (m : Memory) (index : Int) (len : Nat) : Option Memory :=
  if Memory.inRange capacity index len then
    some (m.setBytes index.toNat (List.replicate len 0))
  else none

end Sys2Proof.Machine
end

