-- ==== Sys2Proof/Machine/RegFile.lean ====
section
/-!
DEFINITION. The general registers of the Register File component (spec/10_state.md R20 to R22):
`x[1]` to `x[31]`; `x[0]` is the constant 0 and holds no state.
-/

namespace Sys2Proof.Machine

/-- The 31 registers that hold state: entry `i - 1` is `x[i]` (R20, R21). -/
abbrev Regs := Vector Word 31

/-- `get(index)` of R21: 0 unconditionally when `index = 0`. -/
def Regs.get (x : Regs) (i : RegIdx) : Word :=
  if h : i = 0 then 0 else
    x[i.toNat - 1]'(by
      have := i.isLt
      have : i.toNat ≠ 0 := fun e => h (BitVec.eq_of_toNat_eq e)
      omega)

/-- `set(index, value)` of R22: no-op when `index = 0`, otherwise the full 64-bit value. -/
def Regs.set (x : Regs) (i : RegIdx) (v : Word) : Regs :=
  if h : i = 0 then x else
    Vector.set x (i.toNat - 1) v (by
      have := i.isLt
      have : i.toNat ≠ 0 := fun e => h (BitVec.eq_of_toNat_eq e)
      omega)

end Sys2Proof.Machine
end

