-- ==== Sys2Proof/Machine/State.lean ====
section
/-!
DEFINITION. The state of the machine, `(x, pc, mem)` of spec/10_state.md and 40_step_cycle.md
R149, with the two parameters of the step beside it; the reasons a step can stop
(60_exceptions.md R320 to R323); and the state after reset (10_state.md R36).
-/

namespace Sys2Proof.Machine

/-- Everything that lives from one step to the next. `x`, `pc` and `mem` are the complete
architectural state (10_state.md). `config` is not state: it holds the parameters of the step
(R30), which no step changes; it stands here so that the step has one argument (log entry 1). -/
structure State where
  /-- `BASE_OFFSET` and `MEM_CAPACITY` (R8, R30). -/
  config : Config
  /-- `x[1] .. x[31]` (R20). -/
  x : Regs
  /-- The program counter: any 64-bit value (R25, R26). -/
  pc : Word
  /-- Memory, "the only address space" (R28). -/
  mem : Memory
  deriving DecidableEq, Repr

/-- `ExecError`: the errors that end a step, each with no state change (60_exceptions.md R320,
R326, R328). The set is closed. Each is the machine's own fatal error, so stopping there is what
the hardware does: safe. -/
inductive Fault where
  /-- Raised by the decode stage of any step whose fetched word has `word[6:0]` outside the twelve
  supported opcodes (R321). Safe: the hardware halts there. -/
  | unsupportedOpcode (opcode : BitVec 7)
  /-- Raised by the decode stage of a step whose word has a supported opcode and matches no
  instruction; the payload is raw bits (R322). Safe: the hardware halts there. -/
  | unsupportedFunct (opcode : BitVec 7) (funct3 : BitVec 3) (funct7 : BitVec 7)
  /-- Raised by the fetch of any step (`address` is the pc, `width` 4) and by the data access of a
  load or store (`address` is the effective address) whose bytes are not all inside Memory; the
  address is the guest address of the access (R323; 20_memory.md R54; log entry 7). Safe: the
  hardware halts there. -/
  | outOfBounds (address : Word) (width : Nat)
  deriving DecidableEq, Repr

/-- What the model declines to give a meaning. -/
inductive Refusal where
  /-- An instruction without a meaning in this model. No arm of `exec` answers with it: every
  instruction of the opcode table has its meaning. Safe: the model stops. -/
  | notModelled (mnemonic : String)
  deriving DecidableEq, Repr

/-- The state right after construction with the configuration `c` (R36, R360): all registers 0
(log entry 2), the pc at `BASE_OFFSET` (R27), every byte of Memory `0x00` (R29). -/
def State.init (c : Config) : State :=
  { config := c, x := Vector.replicate 31 0, pc := c.baseOffset, mem := [] }

/-- The machine right after reset, with the default configuration (R8, R36; log entry 1). -/
def State.reset : State := State.init Config.default

end Sys2Proof.Machine
end

