-- ==== Sys2Proof/Machine/Ops.lean ====
section
/-!
DEFINITION. The named operations through which a meaning touches the state: the primitives of
spec/00_scope.md R13, the engine's fetch (40_step_cycle.md R141), raising an error
(60_exceptions.md R327, R328) and the ways an instruction retires (R146 to R149).
-/

namespace Sys2Proof.Machine

/-- What a step or a meaning answers. -/
abbrev Result := Host.Outcome State Fault Refusal

/-! ### Registers and the pc (10_state.md R21, R22, R26) -/

/-- `x[i]` (R13, R21). -/
def State.readReg (s : State) (i : RegIdx) : Word := s.x.get i

/-- `x[i] <- v` (R13, R22). -/
def State.writeReg (s : State) (i : RegIdx) (v : Word) : State := { s with x := s.x.set i v }

/-- `pc <- t`: no masking, no check (R26). -/
def State.setPc (s : State) (t : Word) : State := { s with pc := t }

/-! ### Memory (20_memory.md R52 to R59) -/

/-- `index = guest_address - base_offset`, in the unbounded integers (R52, R53). -/
def State.index (s : State) (a : Word) : Int := (a.toNat : Int) - (s.config.baseOffset.toNat : Int)

/-- The bounds check of R53 for `n` bytes at guest address `a`. -/
def State.inBounds (s : State) (a : Word) (n : Nat) : Bool :=
  Memory.inRange s.config.memCapacity (s.index a) n

/-- `MemRead(a, n)`: the Memory component's `read` at the index of `a` (R58, R62). -/
def State.memRead (s : State) (a : Word) (n : Nat) : Except Fault Nat :=
  match Memory.read s.config.memCapacity s.mem (s.index a) n with
  | some v => .ok v
  | none => .error (.outOfBounds a n)

/-- `MemWrite(a, n, v)`: the Memory component's `write` at the index of `a` (R59, R62). -/
def State.memWrite (s : State) (a : Word) (n : Nat) (v : Word) : Except Fault State :=
  match Memory.write s.config.memCapacity s.mem (s.index a) n v with
  | some m => .ok { s with mem := m }
  | none => .error (.outOfBounds a n)

/-! ### Taking an error -/

/-- `raise E`: the hardware's whole exception entry. The step ends with the error as its result
and the state stays as it was before the step; no handler, no saved register, no mode change
(R13; 60_exceptions.md R327, R328). There is no return from it (R333). -/
def raise (f : Fault) : Result := .fault f

/-- A decode error as the step reports it: `ExecError` "wraps" it (R326). -/
def faultOfDecodeError : DecodeError → Fault
  | .unsupportedOpcode op => .unsupportedOpcode op
  | .unsupportedFunct op f3 f7 => .unsupportedFunct op f3 f7

/-! ### Fetch -/

/-- `fetch()`: four bytes at the pc, little-endian, no alignment requirement (R141; 20_memory.md
R57, R64). -/
def State.fetch (s : State) : Except Fault InstrWord :=
  match s.memRead s.pc 4 with
  | .ok v => .ok (BitVec.ofNat 32 v)
  | .error f => .error f

/-! ### How an instruction retires (40_step_cycle.md R144 to R149)

Every operand of these is computed from the state before the instruction (R145). -/

/-- `pc <- pc + 4`, modulo `2^64`: the sequencer's default advance (R146). -/
def State.advance (s : State) : State := s.setPc (s.pc + 4)

/-- Nothing but the default advance. -/
def retire (s : State) : Result := .next s.advance

/-- `x[rd] <- v`, then the default advance. -/
def retireReg (rd : RegIdx) (v : Word) (s : State) : Result := .next (s.writeReg rd v).advance

/-- `x[rd] <- extend(MemRead(ea, n))`, then the default advance. The access is made, and can
fail, whatever `rd` is (41_loads.md R160). -/
def loadTo (rd : RegIdx) (ea : Word) (n : Nat) (extend : Nat → Word) (s : State) : Result :=
  match s.memRead ea n with
  | .ok v => retireReg rd (extend v) s
  | .error f => raise f

/-- `MemWrite(ea, n, v)`, then the default advance (44_stores.md R240). -/
def storeAt (ea : Word) (n : Nat) (v : Word) (s : State) : Result :=
  match s.memWrite ea n v with
  | .ok s' => retire s'
  | .error f => raise f

/-- The redirect of a branch whose condition holds, else the default advance (R147;
45_branches.md R260). -/
def branchTo (taken : Bool) (target : Word) (s : State) : Result :=
  if taken then .next (s.setPc target) else retire s

/-- `x[rd] <- pc + 4; pc <- target` (46_jumps.md R280, R281). The target is not checked (R284). -/
def jumpTo (rd : RegIdx) (target : Word) (s : State) : Result :=
  .next ((s.writeReg rd (s.pc + 4)).setPc target)

/-- The word with `w`'s bits stored as the four bytes at the pc, when they are inside Memory:
what a load of a program puts there (log entry 3). -/
def State.placeWord (s : State) (w : InstrWord) : State :=
  match s.memWrite s.pc 4 (zext w) with
  | .ok s' => s'
  | .error _ => s

end Sys2Proof.Machine
end

