-- ==== Sys2Proof/Machine/Operands.lean ====
section
/-!
DEFINITION. The operand forms (spec/30_encoding.md R104; 41_loads.md R160; 44_stores.md R240;
45_branches.md R260; 46_jumps.md R280, R281) and how a loaded value is widened (41_loads.md R160).
-/

namespace Sys2Proof.Machine

/-- `ea <- x[rs1] + imm`, modulo `2^64`: the only addressing mode (R160, R240). -/
def effectiveAddress (rs1 : RegIdx) (imm : Word) (s : State) : Word := s.readReg rs1 + imm

/-- `pc + imm`, modulo `2^64`, relative to the instruction's own address (R260, R280, R291). -/
def pcRelative (imm : Word) (s : State) : Word := s.pc + imm

/-- `(x[rs1] + immI) & ~1` (R281). -/
def jalrTarget (rs1 : RegIdx) (imm : Word) (s : State) : Word := (s.readReg rs1 + imm) &&& ~~~1

/-- `x[rs2][5:0]`, the amount of the 64-bit register shifts (R104). -/
def shiftAmount (rs2 : RegIdx) (s : State) : Nat := ((s.readReg rs2).extractLsb' 0 6).toNat

/-- `x[rs2][4:0]`, the amount of the W register shifts (R104). -/
def shiftAmountW (rs2 : RegIdx) (s : State) : Nat := ((s.readReg rs2).extractLsb' 0 5).toNat

/-- `sext_N` of a value `MemRead` gave (R160; 00_scope.md R12). -/
def loadedSigned (bits : Nat) (v : Nat) : Word := sext (BitVec.ofNat bits v)

/-- `zext_N` of a value `MemRead` gave (R160; 00_scope.md R12). -/
def loadedUnsigned (bits : Nat) (v : Nat) : Word := zext (BitVec.ofNat bits v)

end Sys2Proof.Machine
end

