-- ==== Sys2Proof/Machine/Branches.lean ====
section
/-!
DEFINITION. Conditional branches (spec/45_branches.md R260 to R266).
-/

namespace Sys2Proof.Machine

/-- BEQ: `if x[rs1] = x[rs2]: pc <- pc + immB` (R261). -/
def execBeq (rs1 : RegIdx) (rs2 : RegIdx) (imm : Word) (s : State) : Result :=
  branchTo (s.readReg rs1 == s.readReg rs2) (pcRelative imm s) s

/-- BNE: `if x[rs1] != x[rs2]: pc <- pc + immB` (R262). -/
def execBne (rs1 : RegIdx) (rs2 : RegIdx) (imm : Word) (s : State) : Result :=
  branchTo (s.readReg rs1 != s.readReg rs2) (pcRelative imm s) s

/-- BLT: `if s(x[rs1]) < s(x[rs2]): pc <- pc + immB` (R263). -/
def execBlt (rs1 : RegIdx) (rs2 : RegIdx) (imm : Word) (s : State) : Result :=
  branchTo (lessSigned (s.readReg rs1) (s.readReg rs2)) (pcRelative imm s) s

/-- BGE: `if s(x[rs1]) >= s(x[rs2]): pc <- pc + immB` (R264). -/
def execBge (rs1 : RegIdx) (rs2 : RegIdx) (imm : Word) (s : State) : Result :=
  branchTo (!lessSigned (s.readReg rs1) (s.readReg rs2)) (pcRelative imm s) s

/-- BLTU: `if u(x[rs1]) < u(x[rs2]): pc <- pc + immB` (R265). -/
def execBltu (rs1 : RegIdx) (rs2 : RegIdx) (imm : Word) (s : State) : Result :=
  branchTo (lessUnsigned (s.readReg rs1) (s.readReg rs2)) (pcRelative imm s) s

/-- BGEU: `if u(x[rs1]) >= u(x[rs2]): pc <- pc + immB` (R266). -/
def execBgeu (rs1 : RegIdx) (rs2 : RegIdx) (imm : Word) (s : State) : Result :=
  branchTo (!lessUnsigned (s.readReg rs1) (s.readReg rs2)) (pcRelative imm s) s

end Sys2Proof.Machine
end

