-- ==== Sys2Proof/Machine/Fence.lean ====
section
/-!
DEFINITION. FENCE (spec/48_fence_system.md R300).
-/

namespace Sys2Proof.Machine

/-- FENCE: nothing; the sequencer advances the pc. "Why a no-op is exact": every earlier access of
the one hart has completed and there is no other observer (R300; 20_memory.md R69). -/
def execFence (s : State) : Result :=
  retire s

end Sys2Proof.Machine
end

