-- ==== Sys2Proof/Machine/Alu.lean ====
section
/-!
DEFINITION. The shifts and the 32-bit ("W") operations that register and immediate forms share
(spec/00_scope.md R11; 42_integer_register.md sections 1 and 2).
-/

namespace Sys2Proof.Machine

/-- `v << n` (R11). -/
def shiftLeft (v : Word) (n : Nat) : Word := v <<< n

/-- `v >>u n`: zeros enter at the left (R11). -/
def shiftRightLogical (v : Word) (n : Nat) : Word := v >>> n

/-- `v >>s n`: copies of `v[63]` enter at the left (R11). -/
def shiftRightArith (v : Word) (n : Nat) : Word := v.sshiftRight n

/-- `sext_32((a + b)[31:0])` (R191). -/
def addW (a b : Word) : Word := sext (lowHalf (a + b))

/-- `sext_32((a - b)[31:0])` (R192). -/
def subW (a b : Word) : Word := sext (lowHalf (a - b))

/-- `sext_32((v[31:0] << n)[31:0])` (R193). -/
def shiftLeftW (v : Word) (n : Nat) : Word := sext (lowHalf v <<< n)

/-- `sext_32(v[31:0] >>u n)`, a 32-bit logical shift (R194). -/
def shiftRightLogicalW (v : Word) (n : Nat) : Word := sext (lowHalf v >>> n)

/-- `sext_32(v[31:0] >>s32 n)`: copies of bit 31 enter at the left (R195). -/
def shiftRightArithW (v : Word) (n : Nat) : Word := sext ((lowHalf v).sshiftRight n)

end Sys2Proof.Machine
end

