-- ==== Sys2Proof/Machine/IntImm.lean ====
section
/-!
DEFINITION. Register-immediate instructions, OP-IMM and OP-IMM-32 (spec/43_integer_immediate.md R210 to
R223). The immediate is always the sign-extended 64-bit one.
-/

namespace Sys2Proof.Machine

/-- ADDI: `x[rd] <- x[rs1] + immI` (R211). -/
def execAddi (rd : RegIdx) (rs1 : RegIdx) (imm : Word) (s : State) : Result :=
  retireReg rd (s.readReg rs1 + imm) s

/-- SLTI: `x[rd] <- (s(x[rs1]) < s(immI)) ? 1 : 0` (R212). -/
def execSlti (rd : RegIdx) (rs1 : RegIdx) (imm : Word) (s : State) : Result :=
  retireReg rd (boolWord (lessSigned (s.readReg rs1) imm)) s

/-- SLTIU: `x[rd] <- (u(x[rs1]) < u(immI)) ? 1 : 0` (R213). -/
def execSltiu (rd : RegIdx) (rs1 : RegIdx) (imm : Word) (s : State) : Result :=
  retireReg rd (boolWord (lessUnsigned (s.readReg rs1) imm)) s

/-- XORI: `x[rd] <- x[rs1] ^ immI` (R214). -/
def execXori (rd : RegIdx) (rs1 : RegIdx) (imm : Word) (s : State) : Result :=
  retireReg rd (s.readReg rs1 ^^^ imm) s

/-- ORI: `x[rd] <- x[rs1] | immI` (R215). -/
def execOri (rd : RegIdx) (rs1 : RegIdx) (imm : Word) (s : State) : Result :=
  retireReg rd (s.readReg rs1 ||| imm) s

/-- ANDI: `x[rd] <- x[rs1] & immI` (R216). -/
def execAndi (rd : RegIdx) (rs1 : RegIdx) (imm : Word) (s : State) : Result :=
  retireReg rd (s.readReg rs1 &&& imm) s

/-- SLLI: `x[rd] <- x[rs1] << shamt` (R217). -/
def execSlli (rd : RegIdx) (rs1 : RegIdx) (shamt : BitVec 6) (s : State) : Result :=
  retireReg rd (shiftLeft (s.readReg rs1) shamt.toNat) s

/-- SRLI: `x[rd] <- x[rs1] >>u shamt` (R218). -/
def execSrli (rd : RegIdx) (rs1 : RegIdx) (shamt : BitVec 6) (s : State) : Result :=
  retireReg rd (shiftRightLogical (s.readReg rs1) shamt.toNat) s

/-- SRAI: `x[rd] <- x[rs1] >>s shamt` (R219). -/
def execSrai (rd : RegIdx) (rs1 : RegIdx) (shamt : BitVec 6) (s : State) : Result :=
  retireReg rd (shiftRightArith (s.readReg rs1) shamt.toNat) s

/-- ADDIW: `x[rd] <- sext_32((x[rs1] + immI)[31:0])` (R220). -/
def execAddiw (rd : RegIdx) (rs1 : RegIdx) (imm : Word) (s : State) : Result :=
  retireReg rd (addW (s.readReg rs1) imm) s

/-- SLLIW: `x[rd] <- sext_32((x[rs1][31:0] << shamt)[31:0])` (R221). -/
def execSlliw (rd : RegIdx) (rs1 : RegIdx) (shamt : BitVec 5) (s : State) : Result :=
  retireReg rd (shiftLeftW (s.readReg rs1) shamt.toNat) s

/-- SRLIW: `x[rd] <- sext_32(x[rs1][31:0] >>u shamt)` (R222). -/
def execSrliw (rd : RegIdx) (rs1 : RegIdx) (shamt : BitVec 5) (s : State) : Result :=
  retireReg rd (shiftRightLogicalW (s.readReg rs1) shamt.toNat) s

/-- SRAIW: `x[rd] <- sext_32(x[rs1][31:0] >>s32 shamt)` (R223). -/
def execSraiw (rd : RegIdx) (rs1 : RegIdx) (shamt : BitVec 5) (s : State) : Result :=
  retireReg rd (shiftRightArithW (s.readReg rs1) shamt.toNat) s

end Sys2Proof.Machine
end

