-- ==== Sys2Proof/Machine/IntReg.lean ====
section
/-!
DEFINITION. Register-register instructions, OP and OP-32 (spec/42_integer_register.md R180 to R195).
-/

namespace Sys2Proof.Machine

/-- ADD: `x[rd] <- x[rs1] + x[rs2]` (R181). -/
def execAdd (rd : RegIdx) (rs1 : RegIdx) (rs2 : RegIdx) (s : State) : Result :=
  retireReg rd (s.readReg rs1 + s.readReg rs2) s

/-- SUB: `x[rd] <- x[rs1] - x[rs2]` (R182). -/
def execSub (rd : RegIdx) (rs1 : RegIdx) (rs2 : RegIdx) (s : State) : Result :=
  retireReg rd (s.readReg rs1 - s.readReg rs2) s

/-- SLL: `x[rd] <- x[rs1] << x[rs2][5:0]` (R183). -/
def execSll (rd : RegIdx) (rs1 : RegIdx) (rs2 : RegIdx) (s : State) : Result :=
  retireReg rd (shiftLeft (s.readReg rs1) (shiftAmount rs2 s)) s

/-- SLT: `x[rd] <- (s(x[rs1]) < s(x[rs2])) ? 1 : 0` (R184). -/
def execSlt (rd : RegIdx) (rs1 : RegIdx) (rs2 : RegIdx) (s : State) : Result :=
  retireReg rd (boolWord (lessSigned (s.readReg rs1) (s.readReg rs2))) s

/-- SLTU: `x[rd] <- (u(x[rs1]) < u(x[rs2])) ? 1 : 0` (R185). -/
def execSltu (rd : RegIdx) (rs1 : RegIdx) (rs2 : RegIdx) (s : State) : Result :=
  retireReg rd (boolWord (lessUnsigned (s.readReg rs1) (s.readReg rs2))) s

/-- XOR: `x[rd] <- x[rs1] ^ x[rs2]` (R186). -/
def execXor (rd : RegIdx) (rs1 : RegIdx) (rs2 : RegIdx) (s : State) : Result :=
  retireReg rd (s.readReg rs1 ^^^ s.readReg rs2) s

/-- SRL: `x[rd] <- x[rs1] >>u x[rs2][5:0]` (R187). -/
def execSrl (rd : RegIdx) (rs1 : RegIdx) (rs2 : RegIdx) (s : State) : Result :=
  retireReg rd (shiftRightLogical (s.readReg rs1) (shiftAmount rs2 s)) s

/-- SRA: `x[rd] <- x[rs1] >>s x[rs2][5:0]` (R188). -/
def execSra (rd : RegIdx) (rs1 : RegIdx) (rs2 : RegIdx) (s : State) : Result :=
  retireReg rd (shiftRightArith (s.readReg rs1) (shiftAmount rs2 s)) s

/-- OR: `x[rd] <- x[rs1] | x[rs2]` (R189). -/
def execOr (rd : RegIdx) (rs1 : RegIdx) (rs2 : RegIdx) (s : State) : Result :=
  retireReg rd (s.readReg rs1 ||| s.readReg rs2) s

/-- AND: `x[rd] <- x[rs1] & x[rs2]` (R190). -/
def execAnd (rd : RegIdx) (rs1 : RegIdx) (rs2 : RegIdx) (s : State) : Result :=
  retireReg rd (s.readReg rs1 &&& s.readReg rs2) s

/-- ADDW: `x[rd] <- sext_32((x[rs1] + x[rs2])[31:0])` (R191). -/
def execAddw (rd : RegIdx) (rs1 : RegIdx) (rs2 : RegIdx) (s : State) : Result :=
  retireReg rd (addW (s.readReg rs1) (s.readReg rs2)) s

/-- SUBW: `x[rd] <- sext_32((x[rs1] - x[rs2])[31:0])` (R192). -/
def execSubw (rd : RegIdx) (rs1 : RegIdx) (rs2 : RegIdx) (s : State) : Result :=
  retireReg rd (subW (s.readReg rs1) (s.readReg rs2)) s

/-- SLLW: `x[rd] <- sext_32((x[rs1][31:0] << x[rs2][4:0])[31:0])` (R193). -/
def execSllw (rd : RegIdx) (rs1 : RegIdx) (rs2 : RegIdx) (s : State) : Result :=
  retireReg rd (shiftLeftW (s.readReg rs1) (shiftAmountW rs2 s)) s

/-- SRLW: `x[rd] <- sext_32(x[rs1][31:0] >>u x[rs2][4:0])` (R194). -/
def execSrlw (rd : RegIdx) (rs1 : RegIdx) (rs2 : RegIdx) (s : State) : Result :=
  retireReg rd (shiftRightLogicalW (s.readReg rs1) (shiftAmountW rs2 s)) s

/-- SRAW: `x[rd] <- sext_32(x[rs1][31:0] >>s32 x[rs2][4:0])` (R195). -/
def execSraw (rd : RegIdx) (rs1 : RegIdx) (rs2 : RegIdx) (s : State) : Result :=
  retireReg rd (shiftRightArithW (s.readReg rs1) (shiftAmountW rs2 s)) s

end Sys2Proof.Machine
end

