-- ==== Sys2Proof/Machine/Jumps.lean ====
section
/-!
DEFINITION. Unconditional jumps JAL and JALR (spec/46_jumps.md R280, R281).
-/

namespace Sys2Proof.Machine

/-- JAL: `t <- pc + immJ; x[rd] <- pc + 4; pc <- t` (R280). -/
def execJal (rd : RegIdx) (imm : Word) (s : State) : Result :=
  jumpTo rd (pcRelative imm s) s

/-- JALR: `t <- (x[rs1] + immI) & ~1; x[rd] <- pc + 4; pc <- t`, the target from the old `x[rs1]`
(R281). -/
def execJalr (rd : RegIdx) (rs1 : RegIdx) (imm : Word) (s : State) : Result :=
  jumpTo rd (jalrTarget rs1 imm s) s

end Sys2Proof.Machine
end

