-- ==== Sys2Proof/Machine/Loads.lean ====
section
/-!
DEFINITION. Loads LB, LH, LW, LD, LBU, LHU, LWU (spec/41_loads.md R160 to R167): `ea <- x[rs1] + immI`, the
whole access checked before anything is written, the value widened to 64 bits.
-/

namespace Sys2Proof.Machine

/-- LB: `x[rd] <- sext_8(MemRead(ea, 1))` (R161). -/
def execLb (rd : RegIdx) (rs1 : RegIdx) (imm : Word) (s : State) : Result :=
  loadTo rd (effectiveAddress rs1 imm s) 1 (loadedSigned 8) s

/-- LH: `x[rd] <- sext_16(MemRead(ea, 2))` (R162). -/
def execLh (rd : RegIdx) (rs1 : RegIdx) (imm : Word) (s : State) : Result :=
  loadTo rd (effectiveAddress rs1 imm s) 2 (loadedSigned 16) s

/-- LW: `x[rd] <- sext_32(MemRead(ea, 4))` (R163). -/
def execLw (rd : RegIdx) (rs1 : RegIdx) (imm : Word) (s : State) : Result :=
  loadTo rd (effectiveAddress rs1 imm s) 4 (loadedSigned 32) s

/-- LD: `x[rd] <- MemRead(ea, 8)` (R164). -/
def execLd (rd : RegIdx) (rs1 : RegIdx) (imm : Word) (s : State) : Result :=
  loadTo rd (effectiveAddress rs1 imm s) 8 (loadedUnsigned 64) s

/-- LBU: `x[rd] <- zext_8(MemRead(ea, 1))` (R165). -/
def execLbu (rd : RegIdx) (rs1 : RegIdx) (imm : Word) (s : State) : Result :=
  loadTo rd (effectiveAddress rs1 imm s) 1 (loadedUnsigned 8) s

/-- LHU: `x[rd] <- zext_16(MemRead(ea, 2))` (R166). -/
def execLhu (rd : RegIdx) (rs1 : RegIdx) (imm : Word) (s : State) : Result :=
  loadTo rd (effectiveAddress rs1 imm s) 2 (loadedUnsigned 16) s

/-- LWU: `x[rd] <- zext_32(MemRead(ea, 4))` (R167). -/
def execLwu (rd : RegIdx) (rs1 : RegIdx) (imm : Word) (s : State) : Result :=
  loadTo rd (effectiveAddress rs1 imm s) 4 (loadedUnsigned 32) s

end Sys2Proof.Machine
end

