-- ==== Sys2Proof/Machine/Stores.lean ====
section
/-!
DEFINITION. Stores SB, SH, SW, SD (spec/44_stores.md R240 to R244): `ea <- x[rs1] + immS`.
-/

namespace Sys2Proof.Machine

/-- SB: `MemWrite(ea, 1, x[rs2])` (R241). -/
def execSb (rs1 : RegIdx) (rs2 : RegIdx) (imm : Word) (s : State) : Result :=
  storeAt (effectiveAddress rs1 imm s) 1 (s.readReg rs2) s

/-- SH: `MemWrite(ea, 2, x[rs2])` (R242). -/
def execSh (rs1 : RegIdx) (rs2 : RegIdx) (imm : Word) (s : State) : Result :=
  storeAt (effectiveAddress rs1 imm s) 2 (s.readReg rs2) s

/-- SW: `MemWrite(ea, 4, x[rs2])` (R243). -/
def execSw (rs1 : RegIdx) (rs2 : RegIdx) (imm : Word) (s : State) : Result :=
  storeAt (effectiveAddress rs1 imm s) 4 (s.readReg rs2) s

/-- SD: `MemWrite(ea, 8, x[rs2])` (R244). -/
def execSd (rs1 : RegIdx) (rs2 : RegIdx) (imm : Word) (s : State) : Result :=
  storeAt (effectiveAddress rs1 imm s) 8 (s.readReg rs2) s

end Sys2Proof.Machine
end

