-- ==== Sys2Proof/Machine/Upper.lean ====
section
/-!
DEFINITION. Upper immediates LUI and AUIPC (spec/47_upper_immediate.md R290, R291).
-/

namespace Sys2Proof.Machine

/-- LUI: `x[rd] <- immU` (R290). -/
def execLui (rd : RegIdx) (imm : Word) (s : State) : Result :=
  retireReg rd imm s

/-- AUIPC: `x[rd] <- pc + immU`, the pc being this instruction's own address (R291). -/
def execAuipc (rd : RegIdx) (imm : Word) (s : State) : Result :=
  retireReg rd (pcRelative imm s) s

end Sys2Proof.Machine
end

