-- ==== Sys2Proof/Machine/Step.lean ====
section
/-!
DEFINITION. The one transition of the machine, `step()` (spec/40_step_cycle.md R140, R149): fetch,
decode, then the decoded instruction's rule, the first error met being the step's result
(60_exceptions.md R324).
-/

namespace Sys2Proof.Machine

/-- `step()`: `word = fetch(); instr = decode(word)`, then the instruction (R140, R149). -/
def step (s : State) : Host.Outcome State Fault Refusal :=
  match s.fetch with
  | .error f => raise f
  | .ok w =>
    match decode w with
    | .error e => raise (faultOfDecodeError e)
    | .ok i => exec i s

/-- `s` with an instruction whose bits are `w`, the bits from `nbits` up being 0, stored where
`step` fetches its next instruction, the four bytes at the pc. A pc whose four bytes are not
inside Memory has no such place, and the state is then left as it is (log entry 3). -/
def State.withFetchWord (s : State) (nbits w : Nat) : State :=
  s.placeWord (BitVec.ofNat 32 (w % 2 ^ nbits))

end Sys2Proof.Machine
end

