-- ==== Sys2Proof/Machine/Loader.lean ====
section
/-!
DEFINITION. The Loader's contract with the core (spec/70_reset_and_hazards.md R366 to R368;
60_exceptions.md R325): it copies the LOAD segments of an ELF64 file into Memory. It writes Memory
and nothing else. What the contract leaves open is refused by name (93_implementation_defined.md
U13, U14; log entries 10 to 13, 18). When the host may call it is said by `loadImage` of
Machine/HostOps.lean.
-/

namespace Sys2Proof.Machine

/-- Which header fields are inconsistent (R320, R366; log entry 10). -/
inductive MalformedReason where
  /-- The file ends before `e_phnum`. -/
  | headerTruncated
  /-- "`e_phnum` implies a program-header table extending past the file length" (R320). -/
  | tablePastEnd
  /-- A LOAD entry's `p_offset` and `p_filesz` reach past the file length. -/
  | segmentPastEnd
  deriving DecidableEq, Repr

/-- `LoadError` (R320, R325), and the bounds error that the Loader "must fail loudly" with. After
either the content of Memory is unspecified and the instance must not be stepped (R367), so no
state comes with it: safe. -/
inductive LoadError where
  /-- Raised by `placeImage` on inconsistent header fields (R325). -/
  | malformedElf (reason : MalformedReason)
  /-- Raised by `placeImage` when a segment's Memory range is out of bounds: its `p_vaddr` and
  `p_memsz` (R366; the payload is log entry 12). -/
  | outOfBounds (address : Word) (width : Nat)
  deriving DecidableEq, Repr

/-- Uses whose effect the contract does not give (93_implementation_defined.md U13, U14): safe. -/
inductive LoadRefusal where
  /-- Two LOAD segments share a byte of Memory; no order of the copies is stated (N25). -/
  | overlappingSegments
  /-- `p_filesz > p_memsz`. -/
  | fileLargerThanMemory
  /-- `load_image` has been called before, or a step has (R374; 92_eei_decisions.md D15(e)). Raised
  by `loadImage`. -/
  | notFresh
  deriving DecidableEq, Repr

/-- The file holds the `n` bytes from offset `off`. An empty range lies in every file, wherever it
starts: the spec is silent on one that starts past the end, and this is the model's choice (DESIGN
CHOICE, log entry 18). -/
def fileHolds (file : List Byte) (off n : Nat) : Bool := n == 0 || decide (off + n ≤ file.length)

/-- The fields of a program-header entry that the Loader uses. -/
structure Segment where
  pType : Nat
  offset : Nat
  vaddr : Nat
  filesz : Nat
  memsz : Nat
  deriving DecidableEq, Repr

/-- The unsigned little-endian reading of a list of bytes. -/
def leValue : List Byte → Nat
  | [] => 0
  | b :: bs => b.toNat + 256 * leValue bs

/-- `n` bytes of the file from offset `off`. -/
def fileSlice (file : List Byte) (off n : Nat) : List Byte := (file.drop off).take n

/-- A little-endian field of `n` bytes at offset `off`. -/
def fileField (file : List Byte) (off n : Nat) : Nat := leValue (fileSlice file off n)

/-- The 56-byte entry at offset `off`, its fields where R366 puts them. -/
def segmentAt (file : List Byte) (off : Nat) : Segment :=
  { pType := fileField file off 4
    offset := fileField file (off + 8) 8
    vaddr := fileField file (off + 16) 8
    filesz := fileField file (off + 32) 8
    memsz := fileField file (off + 40) 8 }

/-- The entries whose `p_type == 1`, in the table's order. -/
def loadSegments (file : List Byte) (phoff phnum : Nat) : List Segment :=
  ((List.range phnum).map fun k => segmentAt file (phoff + 56 * k)).filter fun g => g.pType == 1

/-- No byte of Memory belongs to both segments. -/
def segmentsDisjoint (g h : Segment) : Bool :=
  g.memsz == 0 || h.memsz == 0 || decide (g.vaddr + g.memsz ≤ h.vaddr) ||
    decide (h.vaddr + h.memsz ≤ g.vaddr)

/-- No two segments of the list share a byte. -/
def allDisjoint : List Segment → Bool
  | [] => true
  | g :: gs => gs.all (segmentsDisjoint g) && allDisjoint gs

/-- Copies `p_filesz` bytes from file offset `p_offset` to `p_vaddr - base_offset`, then zero-fills
the remaining `p_memsz - p_filesz` bytes; `none` if the range is out of bounds (R366). -/
def placeSegment (file : List Byte) (g : Segment) (s : State) : Option State :=
  let index : Int := (g.vaddr : Int) - (s.config.baseOffset.toNat : Int)
  if Memory.inRange s.config.memCapacity index g.memsz then
    let copied := s.mem.setBytes index.toNat (fileSlice file g.offset g.filesz)
    match Memory.fillZero s.config.memCapacity copied (index + g.filesz) (g.memsz - g.filesz) with
    | some m => some { s with mem := m }
    | none => none
  else none

/-- The segments one after the other, in the table's order. -/
def placeSegments (file : List Byte) : List Segment → State →
    Host.Outcome State LoadError LoadRefusal
  | [], s => .next s
  | g :: gs, s =>
    match placeSegment file g s with
    | some s' => placeSegments file gs s'
    | none => .fault (.outOfBounds (BitVec.ofNat 64 g.vaddr) g.memsz)

/-- What `load_image(bytes)` does to the core (R366): `e_phoff` is the 8 bytes at offset 32, `e_phnum`
the 2 bytes at offset 56. No other header field is read, `e_entry` among them, and the pc is not set
(R27). Which files are malformed is log entry 10. A table without entries, and a LOAD entry without
file bytes, are in order wherever they start: nothing is copied, and the entry's Memory range is
zero-filled (DESIGN CHOICE, log entry 18). -/
def placeImage (file : List Byte) (s : State) : Host.Outcome State LoadError LoadRefusal :=
  let phoff := fileField file 32 8
  let phnum := fileField file 56 2
  let segments := loadSegments file phoff phnum
  if file.length < 58 then .fault (.malformedElf .headerTruncated)
  else if !fileHolds file phoff (56 * phnum) then .fault (.malformedElf .tablePastEnd)
  else if segments.any fun g => !fileHolds file g.offset g.filesz then
    .fault (.malformedElf .segmentPastEnd)
  else if segments.any fun g => decide (g.memsz < g.filesz) then .refused .fileLargerThanMemory
  else if allDisjoint segments then placeSegments file segments s
  else .refused .overlappingSegments

end Sys2Proof.Machine
end

