-- ==== Sys2Proof/Machine/HostOps.lean ====
section
/-!
DEFINITION. The host's operations on the core (spec/70_reset_and_hazards.md R364 to R374). They act
between steps only. Only `load_image`, once and before the first step, and `step` change the
machine.
-/

namespace Sys2Proof.Machine

/-- An instance as the host holds it (R364). `fresh` is the model's own record of the host's calls,
not state of the hart, which has no hidden state (10_state.md R35): it says that neither
`load_image` nor `step` has been called yet (log entry 13). -/
structure Emulator where
  state : State
  fresh : Bool
  deriving DecidableEq, Repr

/-- `construct(config)`: a fresh instance in the reset state of R36, for a legal configuration only
(R362; an illegal one is refused, 93_implementation_defined.md U11). -/
def construct (c : Config) : Option Emulator :=
  if c.Legal then some { state := State.init c, fresh := true } else none

/-- `load_image(bytes)`: the Loader's contract, "at most once, before the first `step()`"
(R366, R374; 92_eei_decisions.md D15(e)). A later call is refused by name (93_implementation_defined.md
U13); no instance comes with an error, so that none can be stepped after it (R367). -/
def loadImage (file : List Byte) (e : Emulator) : Host.Outcome Emulator LoadError LoadRefusal :=
  if e.fresh then
    match placeImage file e.state with
    | .next t => .next { state := t, fresh := false }
    | .fault f => .fault f
    | .refused r => .refused r
  else .refused .notFresh

/-- The state the host finds after calling `step()`: the next state, or, after an error, the state
as it was (60_exceptions.md R328). -/
def State.afterStep (s : State) : State :=
  match step s with
  | .next t => t
  | .fault _ => s
  | .refused _ => s

/-- `inspect_register(index)`: `x[index]`, defined on `[0, 31]` only (R370). -/
def State.inspectRegister (s : State) (index : Nat) : Option Word :=
  if index < 32 then some (s.readReg (BitVec.ofNat 5 index)) else none

/-- `inspect_pc()` (R371). -/
def State.inspectPc (s : State) : Word := s.pc

/-- `inspect_memory(address, length)`: the bytes at a guest address, defined only when the range
is in bounds by R53, and otherwise `OutOfBounds` (R372). -/
def State.inspectMemory (s : State) (address : Word) (length : Nat) : Except Fault (List Byte) :=
  if s.inBounds address length then
    .ok ((List.range length).map fun k => s.mem.readByte ((s.index address).toNat + k))
  else .error (.outOfBounds address length)

/-- The host's calls on an instance (R364). -/
inductive HostCall where
  | loadImage (file : List Byte)
  | step
  | inspectRegister (index : Nat)
  | inspectPc
  | inspectMemory (address : Word) (length : Nat)
  deriving DecidableEq, Repr

/-- The instance after a call: "no host move that changes the state during a run" but `step()`
(R374). None after a `load_image` that fails or is refused. -/
def Emulator.afterCall (e : Emulator) : HostCall → Option Emulator
  | .loadImage file =>
    match Sys2Proof.Machine.loadImage file e with
    | .next e' => some e'
    | .fault _ => none
    | .refused _ => none
  | .step => some { state := e.state.afterStep, fresh := false }
  | .inspectRegister _ => some e
  | .inspectPc => some e
  | .inspectMemory _ _ => some e

/-- The instance after a list of calls, the first call first. -/
def Emulator.afterCalls (e : Emulator) : List HostCall → Option Emulator
  | [] => some e
  | c :: cs =>
    match e.afterCall c with
    | some e' => e'.afterCalls cs
    | none => none

end Sys2Proof.Machine
end

