-- ==== Sys2Proof/Safety.lean ====
section
/-!
DEFINITION. The vocabulary of the claims: which states are good, what an instruction may change,
what the host sees after a step, and how a run ends.
-/

namespace Sys2Proof.Machine

/-! ### Good states -/

/-- The invariant of every run: the configuration is legal (spec/70_reset_and_hazards.md R362) and
Memory is in its canonical form inside the capacity (10_state.md R28). -/
abbrev State.Inv (s : State) : Prop := s.config.Legal ∧ Memory.wf s.config.memCapacity s.mem

/-! ### What a next state keeps and changes -/

/-- Every byte of Memory reads as before. -/
def SameMemory (s t : State) : Prop := ∀ i : Nat, t.mem.readByte i = s.mem.readByte i

/-- Every general register reads as before. -/
def SameRegs (s t : State) : Prop := ∀ r : RegIdx, t.readReg r = s.readReg r

/-- `x[rd] <- v` and nothing else among the registers: `rd` reads `v` (unless it is `x0`, which
discards the write, 10_state.md R22) and every other register reads as before. -/
def RegsAfterWrite (s t : State) (rd : RegIdx) (v : Word) : Prop :=
  ∀ r : RegIdx, t.readReg r = if r = rd ∧ r ≠ 0 then v else s.readReg r

/-- The whole effect of an instruction that writes `v` to `rd` and advances. -/
def WritesOnlyReg (s t : State) (rd : RegIdx) (v : Word) : Prop :=
  t.pc = s.pc + 4 ∧ RegsAfterWrite s t rd v ∧ SameMemory s t ∧ t.config = s.config

/-- The whole effect of a control transfer that writes no register: the pc. -/
def MovesOnlyPc (s t : State) (target : Word) : Prop :=
  t.pc = target ∧ SameRegs s t ∧ SameMemory s t ∧ t.config = s.config

/-- The whole effect of a jump: the link in `rd`, and the pc. -/
def LinksAndMovesPc (s t : State) (rd : RegIdx) (target : Word) : Prop :=
  t.pc = target ∧ RegsAfterWrite s t rd (s.pc + 4) ∧ SameMemory s t ∧ t.config = s.config

/-- Memory after `MemWrite(ea, n, v)` (20_memory.md R59): byte `k` of the `n` bytes at `ea` is
`v[8k+7 : 8k]`, every other byte is as before. -/
def MemoryAfterStore (s t : State) (ea : Word) (n : Nat) (v : Word) : Prop :=
  (∀ k : Nat, k < n → t.mem.readByte ((s.index ea).toNat + k) = v.extractLsb' (8 * k) 8) ∧
    ∀ i : Nat, ¬ (s.index ea ≤ i ∧ (i : Int) < s.index ea + n) →
      t.mem.readByte i = s.mem.readByte i

/-- The whole effect of a store. -/
def StoresOnly (s t : State) (ea : Word) (n : Nat) (v : Word) : Prop :=
  t.pc = s.pc + 4 ∧ SameRegs s t ∧ MemoryAfterStore s t ea n v ∧ t.config = s.config

/-- The bounds condition of 20_memory.md R53, for `n` bytes at guest address `a`, in the unbounded
integers. -/
def InBounds (s : State) (a : Word) (n : Nat) : Prop :=
  0 ≤ (a.toNat : Int) - s.config.baseOffset.toNat ∧
    (a.toNat : Int) - s.config.baseOffset.toNat + n ≤ s.config.memCapacity

/-- The unsigned little-endian value of the `n` bytes at guest address `a` (20_memory.md R58). -/
def MemValue (s : State) (a : Word) (n : Nat) : Nat :=
  ((List.range n).map fun k => (s.mem.readByte ((s.index a).toNat + k)).toNat * 2 ^ (8 * k)).sum

/-! ### Encodings -/

/-- `w` decodes to `build w` exactly when the row's masked bits match (30_encoding.md R109). -/
def DecodesExactly (mask bits : InstrWord) (build : InstrWord → Instr) : Prop :=
  ∀ w : InstrWord, decode w = .ok (build w) ↔ w &&& mask = bits

/-- `word[hi:lo]` as an unsigned integer (00_scope.md R10). -/
def bitsOf (w : InstrWord) (hi lo : Nat) : Nat := w.toNat / 2 ^ lo % 2 ^ (hi + 1 - lo)

/-- The twelve opcodes of 30_encoding.md R106. -/
def supportedOpcodes : List (BitVec 7) :=
  [0x03, 0x0F, 0x13, 0x17, 0x1B, 0x23, 0x33, 0x37, 0x3B, 0x63, 0x67, 0x6F]

/-- The words with a supported opcode that are no instruction: the table of 30_encoding.md R109. -/
def UnsupportedFunctWord (w : InstrWord) : Prop :=
  let op := bitsOf w 6 0
  let f3 := bitsOf w 14 12
  let f7 := bitsOf w 31 25
  let f6 := bitsOf w 31 26
  (op = 0x03 ∧ f3 = 7) ∨ (op = 0x0F ∧ f3 ≠ 0) ∨
  (op = 0x13 ∧ ((f3 = 1 ∧ f6 ≠ 0) ∨ (f3 = 5 ∧ f6 ≠ 0b000000 ∧ f6 ≠ 0b010000))) ∨
  (op = 0x1B ∧ (f3 ∈ [2, 3, 4, 6, 7] ∨ (f3 = 1 ∧ f7 ≠ 0) ∨ (f3 = 5 ∧ f7 ∉ [0x00, 0x20]))) ∨
  (op = 0x23 ∧ 4 ≤ f3) ∨
  (op = 0x33 ∧ (f3, f7) ∉ [(0, 0x00), (0, 0x20), (1, 0x00), (2, 0x00), (3, 0x00), (4, 0x00),
    (5, 0x00), (5, 0x20), (6, 0x00), (7, 0x00)]) ∨
  (op = 0x3B ∧ (f3, f7) ∉ [(0, 0x00), (0, 0x20), (1, 0x00), (5, 0x00), (5, 0x20)]) ∨
  (op = 0x63 ∧ f3 ∈ [2, 3]) ∨ (op = 0x67 ∧ f3 ≠ 0)

/-! ### Instruction classes -/

/-- The guest address and width of an instruction's one data access, if it makes one (20_memory.md
R65; 40_step_cycle.md R144). -/
def dataAccess (i : Instr) (s : State) : Option (Word × Nat) :=
  match i with
  | .lb _ rs1 imm | .lbu _ rs1 imm | .sb rs1 _ imm => some (s.readReg rs1 + imm, 1)
  | .lh _ rs1 imm | .lhu _ rs1 imm | .sh rs1 _ imm => some (s.readReg rs1 + imm, 2)
  | .lw _ rs1 imm | .lwu _ rs1 imm | .sw rs1 _ imm => some (s.readReg rs1 + imm, 4)
  | .ld _ rs1 imm | .sd rs1 _ imm => some (s.readReg rs1 + imm, 8)
  | _ => none

end Sys2Proof.Machine

namespace Sys2Proof

/-- SB, SH, SW, SD: the only instructions that change Memory (10_state.md R29). -/
def Instr.isStore : Instr → Bool
  | .sb _ _ _ | .sh _ _ _ | .sw _ _ _ | .sd _ _ _ => true
  | _ => false

/-- The register an instruction names as its destination, if it has one (30_encoding.md R105;
48_fence_system.md R300: FENCE writes none). -/
def Instr.destination : Instr → Option RegIdx
  | .lb rd _ _ | .lh rd _ _ | .lw rd _ _ | .ld rd _ _ | .lbu rd _ _ | .lhu rd _ _ | .lwu rd _ _
  | .add rd _ _ | .sub rd _ _ | .sll rd _ _ | .slt rd _ _ | .sltu rd _ _ | .xor rd _ _
  | .srl rd _ _ | .sra rd _ _ | .or rd _ _ | .and rd _ _
  | .addw rd _ _ | .subw rd _ _ | .sllw rd _ _ | .srlw rd _ _ | .sraw rd _ _
  | .addi rd _ _ | .slti rd _ _ | .sltiu rd _ _ | .xori rd _ _ | .ori rd _ _ | .andi rd _ _
  | .slli rd _ _ | .srli rd _ _ | .srai rd _ _
  | .addiw rd _ _ | .slliw rd _ _ | .srliw rd _ _ | .sraiw rd _ _
  | .jal rd _ | .jalr rd _ _ | .lui rd _ | .auipc rd _ => some rd
  | _ => none

end Sys2Proof

namespace Sys2Proof.Machine

/-- Where a control transfer redirects the pc to, when it does: JAL and JALR always, a branch when
its condition holds (40_step_cycle.md R147; 45_branches.md R260 to R266; 46_jumps.md R280,
R281). -/
def redirect (i : Instr) (s : State) : Option Word :=
  match i with
  | .jal _ imm => some (s.pc + imm)
  | .jalr _ rs1 imm => some ((s.readReg rs1 + imm) &&& ~~~1)
  | .beq rs1 rs2 imm => if s.readReg rs1 = s.readReg rs2 then some (s.pc + imm) else none
  | .bne rs1 rs2 imm => if s.readReg rs1 ≠ s.readReg rs2 then some (s.pc + imm) else none
  | .blt rs1 rs2 imm =>
    if (s.readReg rs1).toInt < (s.readReg rs2).toInt then some (s.pc + imm) else none
  | .bge rs1 rs2 imm =>
    if (s.readReg rs2).toInt ≤ (s.readReg rs1).toInt then some (s.pc + imm) else none
  | .bltu rs1 rs2 imm =>
    if (s.readReg rs1).toNat < (s.readReg rs2).toNat then some (s.pc + imm) else none
  | .bgeu rs1 rs2 imm =>
    if (s.readReg rs2).toNat ≤ (s.readReg rs1).toNat then some (s.pc + imm) else none
  | _ => none

/-! ### Shapes of instruction rules

Each says that the instruction completes, what its next state holds and that nothing else of the
state changes, in every state the rule covers. -/

/-- A register-register instruction (42_integer_register.md R180): it never fails, and writes
`f(x[rs1], x[rs2])` to `x[rd]`. -/
def ComputesReg (mk : RegIdx → RegIdx → RegIdx → Instr) (f : Word → Word → Word) : Prop :=
  ∀ (rd rs1 rs2 : RegIdx) (s : State), ∃ t, exec (mk rd rs1 rs2) s = .next t ∧
    WritesOnlyReg s t rd (f (s.readReg rs1) (s.readReg rs2))

/-- A register-immediate instruction (43_integer_immediate.md R210). -/
def ComputesImm (mk : RegIdx → RegIdx → Word → Instr) (f : Word → Word → Word) : Prop :=
  ∀ (rd rs1 : RegIdx) (imm : Word) (s : State), ∃ t, exec (mk rd rs1 imm) s = .next t ∧
    WritesOnlyReg s t rd (f (s.readReg rs1) imm)

/-- A shift by a constant (43_integer_immediate.md R210; 30_encoding.md R104). -/
def ComputesShift {n : Nat} (mk : RegIdx → RegIdx → BitVec n → Instr) (f : Word → Nat → Word) :
    Prop :=
  ∀ (rd rs1 : RegIdx) (shamt : BitVec n) (s : State), ∃ t, exec (mk rd rs1 shamt) s = .next t ∧
    WritesOnlyReg s t rd (f (s.readReg rs1) shamt.toNat)

/-- A load of `n` bytes (41_loads.md R160), `rd = x0` included: in bounds it writes `f` of the
value in memory, out of bounds it raises the error and there is no next state. -/
def LoadsReg (mk : RegIdx → RegIdx → Word → Instr) (n : Nat) (f : Nat → Word) : Prop :=
  ∀ (rd rs1 : RegIdx) (imm : Word) (s : State),
    (InBounds s (s.readReg rs1 + imm) n → ∃ t, exec (mk rd rs1 imm) s = .next t ∧
      WritesOnlyReg s t rd (f (MemValue s (s.readReg rs1 + imm) n))) ∧
    (¬ InBounds s (s.readReg rs1 + imm) n →
      exec (mk rd rs1 imm) s = .fault (.outOfBounds (s.readReg rs1 + imm) n))

/-- A store of `n` bytes (44_stores.md R240): in bounds it writes the low `n` bytes of `x[rs2]` at
`x[rs1] + immS`, out of bounds it raises the error and there is no next state. -/
def StoresReg (mk : RegIdx → RegIdx → Word → Instr) (n : Nat) : Prop :=
  ∀ (rs1 rs2 : RegIdx) (imm : Word) (s : State),
    (InBounds s (s.readReg rs1 + imm) n → ∃ t, exec (mk rs1 rs2 imm) s = .next t ∧
      StoresOnly s t (s.readReg rs1 + imm) n (s.readReg rs2)) ∧
    (¬ InBounds s (s.readReg rs1 + imm) n →
      exec (mk rs1 rs2 imm) s = .fault (.outOfBounds (s.readReg rs1 + imm) n))

/-- A conditional branch (45_branches.md R260): it never fails, and moves the pc to `pc + immB`
when the condition holds and to `pc + 4` when it does not. -/
def BranchesWhen (mk : RegIdx → RegIdx → Word → Instr) (cond : Word → Word → Prop) : Prop :=
  ∀ (rs1 rs2 : RegIdx) (imm : Word) (s : State),
    (cond (s.readReg rs1) (s.readReg rs2) → ∃ t, exec (mk rs1 rs2 imm) s = .next t ∧
      MovesOnlyPc s t (s.pc + imm)) ∧
    (¬ cond (s.readReg rs1) (s.readReg rs2) → ∃ t, exec (mk rs1 rs2 imm) s = .next t ∧
      MovesOnlyPc s t (s.pc + 4))

/-! ### How a run ends -/

/-- What stops the hart in a state, and with which error (60_exceptions.md R321 to R323). The spec
orders the four conditions (R324); each of the later ones needs that the earlier do not hold. -/
inductive HaltCause (s : State) : Fault → Prop where
  /-- The four bytes at the pc are not all inside Memory (R323 (a)). -/
  | fetch : ¬ InBounds s s.pc 4 → HaltCause s (.outOfBounds s.pc 4)
  /-- The fetched word's opcode is not supported (R321). -/
  | opcode (w : InstrWord) : s.fetch = .ok w → opcodeOf w ∉ supportedOpcodes →
      HaltCause s (.unsupportedOpcode (opcodeOf w))
  /-- The fetched word has a supported opcode and matches no instruction (R322). -/
  | funct (w : InstrWord) : s.fetch = .ok w → UnsupportedFunctWord w →
      HaltCause s (.unsupportedFunct (opcodeOf w) (funct3Of w) (funct7Of w))
  /-- The bytes of the load's or store's access are not all inside Memory (R323 (b)). -/
  | access (w : InstrWord) (i : Instr) (a : Word) (n : Nat) : s.fetch = .ok w →
      decode w = .ok i → dataAccess i s = some (a, n) → ¬ InBounds s a n →
      HaltCause s (.outOfBounds a n)

/-- The state after `k` calls of `step()`, errors included (40_step_cycle.md R151; 60_exceptions.md
R329). -/
def State.afterSteps : Nat → State → State
  | 0, s => s
  | k + 1, s => State.afterSteps k s.afterStep

end Sys2Proof.Machine
end

