-- ==== Sys2Proof/Certificates/Slice0/Obligations.lean ====
section
/-!
DEFINITION. The statements for the provers. Each docstring names the rules of spec/ it formalises;
a statement on a choice of the model or on a consequence the spec marks as its own says so.
-/

open Sys2Proof Sys2Proof.Machine

/-! ### Notation, encoding and the decoder -/

/-- R12: `sext_N` and `zext_N`, for every width from 1 to 64. -/
def Obligations.ExtensionsReadAsStated : Prop :=
  ∀ N : Nat, 1 ≤ N → N ≤ 64 → ∀ v : BitVec N,
    (sext v).toNat = (if v.getLsbD (N - 1) then v.toNat + 2 ^ 64 - 2 ^ N else v.toNat) ∧
    (zext v).toNat = v.toNat

/-- R92 with R10's slices: every field stands at its fixed place. That S, B, U and J keep the common
places is the spec's own decision D20. -/
def Obligations.FieldsStandAtTheirPlaces : Prop :=
  ∀ w : InstrWord, (opcodeOf w).toNat = bitsOf w 6 0 ∧ (rdOf w).toNat = bitsOf w 11 7 ∧
    (funct3Of w).toNat = bitsOf w 14 12 ∧ (rs1Of w).toNat = bitsOf w 19 15 ∧
    (rs2Of w).toNat = bitsOf w 24 20 ∧ (funct7Of w).toNat = bitsOf w 31 25 ∧
    (rdOf w).toNat ≤ 31 ∧ (rs1Of w).toNat ≤ 31 ∧ (rs2Of w).toNat ≤ 31

/-- R99 and R100: the two 12-bit immediates, as signed integers. -/
def Obligations.TwelveBitImmediatesAreSigned : Prop :=
  ∀ w : InstrWord,
    ((immIOf w).toInt = Int.bmod (bitsOf w 31 20) (2 ^ 12) ∧
      -2048 ≤ (immIOf w).toInt ∧ (immIOf w).toInt ≤ 2047) ∧
    ((immSOf w).toInt = Int.bmod (bitsOf w 31 25 * 2 ^ 5 + bitsOf w 11 7 : Nat) (2 ^ 12) ∧
      -2048 ≤ (immSOf w).toInt ∧ (immSOf w).toInt ≤ 2047)

/-- R101 and R103: the two scrambled immediates, as signed integers, always even. -/
def Obligations.TargetImmediatesAreSignedAndEven : Prop :=
  ∀ w : InstrWord,
    ((immBOf w).toInt = Int.bmod (bitsOf w 31 31 * 2 ^ 12 + bitsOf w 7 7 * 2 ^ 11 +
        bitsOf w 30 25 * 2 ^ 5 + bitsOf w 11 8 * 2 : Nat) (2 ^ 13) ∧
      -4096 ≤ (immBOf w).toInt ∧ (immBOf w).toInt ≤ 4094 ∧ 2 ∣ (immBOf w).toInt) ∧
    ((immJOf w).toInt = Int.bmod (bitsOf w 31 31 * 2 ^ 20 + bitsOf w 19 12 * 2 ^ 12 +
        bitsOf w 20 20 * 2 ^ 11 + bitsOf w 30 21 * 2 : Nat) (2 ^ 21) ∧
      -1048576 ≤ (immJOf w).toInt ∧ (immJOf w).toInt ≤ 1048574 ∧ 2 ∣ (immJOf w).toInt)

/-- R102: the upper immediate, sign-extended from bit 31, in steps of 4096. -/
def Obligations.UpperImmediateIsSigned : Prop :=
  ∀ w : InstrWord,
    (immUOf w).toInt = Int.bmod (bitsOf w 31 12 * 2 ^ 12 : Nat) (2 ^ 32) ∧
      -2 ^ 31 ≤ (immUOf w).toInt ∧ (immUOf w).toInt ≤ 2 ^ 31 - 4096 ∧
      4096 ∣ (immUOf w).toInt ∧ immUOf w = sext (w.extractLsb' 12 20) <<< 12

/-- Words of the spec's own tables and what they stand for (95_test_vectors.md S1 and V2). -/
def Obligations.SpecWordsDecode : Prop :=
  decode 0x00052503 = .ok (.lw 10 10 0) ∧ decode 0x402081B3 = .ok (.sub 3 1 2) ∧
  decode 0x80010093 = .ok (.addi 1 2 0xFFFFFFFFFFFFF800) ∧
  decode 0x7E11AFA3 = .ok (.sw 3 1 2047) ∧ decode 0x8062E063 = .ok (.bltu 5 6 (-4096)) ∧
  decode 0x001000EF = .ok (.jal 1 2048) ∧ decode 0xFFD280E7 = .ok (.jalr 1 5 (-3)) ∧
  decode 0x800002B7 = .ok (.lui 5 0xFFFFFFFF80000000) ∧
  decode 0x8330000F = .ok (.fence 8 3 3 0 0)

/-- R109 with R110's table: a word is the instruction of a row exactly when its masked bits are the
row's, and the words with a supported opcode that are none are those of R109's table. The rows and
the table are the spec's own decisions D1 and D9. -/
def Obligations.RowsSelectWords : Prop :=
  (∀ w i, decode w = .ok i → w &&& i.rowBits.mask = i.rowBits.bits) ∧
  (∀ w (i : Instr), w &&& i.rowBits.mask = i.rowBits.bits →
    ∃ j, decode w = .ok j ∧ j.rowBits = i.rowBits) ∧
  (∀ w, (∃ op f3 f7, decode w = .error (.unsupportedFunct op f3 f7)) ↔ UnsupportedFunctWord w)

/-- R107 and R108: which error a word that is no instruction gives, with its payload. The payload is
the spec's own decision D9, the set of opcodes its D1. -/
def Obligations.DecodeErrorsAreStaged : Prop :=
  (∀ w, opcodeOf w ∉ supportedOpcodes → decode w = .error (.unsupportedOpcode (opcodeOf w))) ∧
  (∀ w op, decode w = .error (.unsupportedOpcode op) →
    op = opcodeOf w ∧ opcodeOf w ∉ supportedOpcodes) ∧
  (∀ w, opcodeOf w ∈ supportedOpcodes →
    (∀ i : Instr, w &&& i.rowBits.mask ≠ i.rowBits.bits) →
    decode w = .error (.unsupportedFunct (opcodeOf w) (funct3Of w) (funct7Of w)))

/-- R168, R196, R224, R245, R267, R282 and R301: the function codes that are no instruction. The
step that fetches such a word fails with its raw bits, and changes nothing. -/
def Obligations.OtherFunctionCodesAreRejected : Prop :=
  ∀ (s : State) (w : InstrWord), s.fetch = .ok w →
    let f3 := (funct3Of w).toNat
    let f7 := (funct7Of w).toNat
    let f6 := (funct6Of w).toNat
    ((opcodeOf w = 0x03 ∧ f3 = 7) ∨ (opcodeOf w = 0x23 ∧ 4 ≤ f3) ∨
      (opcodeOf w = 0x63 ∧ (f3 = 2 ∨ f3 = 3)) ∨ (opcodeOf w = 0x67 ∧ f3 ≠ 0) ∨
      (opcodeOf w = 0x0F ∧ f3 ≠ 0) ∨
      (opcodeOf w = 0x33 ∧ (f3, f7) ∉ [(0, 0x00), (0, 0x20), (1, 0x00), (2, 0x00), (3, 0x00),
        (4, 0x00), (5, 0x00), (5, 0x20), (6, 0x00), (7, 0x00)]) ∨
      (opcodeOf w = 0x3B ∧ (f3, f7) ∉ [(0, 0x00), (0, 0x20), (1, 0x00), (5, 0x00), (5, 0x20)]) ∨
      (opcodeOf w = 0x13 ∧
        ((f3 = 1 ∧ f6 ≠ 0b000000) ∨ (f3 = 5 ∧ f6 ∉ [0b000000, 0b010000]))) ∨
      (opcodeOf w = 0x1B ∧
        (f3 ∈ [2, 3, 4, 6, 7] ∨ (f3 = 1 ∧ f7 ≠ 0x00) ∨ (f3 = 5 ∧ f7 ∉ [0x00, 0x20])))) →
    step s = .fault (.unsupportedFunct (opcodeOf w) (funct3Of w) (funct7Of w)) ∧
      s.afterStep = s

/-- R115: the M-extension words under `0x33` and `0x3B` are rejected. -/
def Obligations.MultiplyAndDivideAreRejected : Prop :=
  ∀ w : InstrWord, (opcodeOf w = 0x33 ∨ opcodeOf w = 0x3B) → funct7Of w = 0x01 →
    decode w = .error (.unsupportedFunct (opcodeOf w) (funct3Of w) 0x01)

/-- Decode and encode agree on every well-formed instruction, with every operand at every value the
encoding admits (30_encoding.md sections 2 to 5). -/
def Obligations.DecodeOfEncode : Prop := ∀ i : Instr, i.wf = true → decode (encode i) = .ok i

/-- The other direction: what decodes is well-formed, and its encoding is the very word, so no bit
of a word is lost (30_encoding.md sections 2 to 5; FENCE's ignored bits are kept, log entry 8). -/
def Obligations.EncodeOfDecode : Prop :=
  ∀ (w : InstrWord) (i : Instr), decode w = .ok i → i.wf = true ∧ encode i = w

/-! ### Registers -/

/-- R21 and R22 (the register file's own part, S3): what a read gives after a write, `x0`
included. -/
def Obligations.RegisterReadAfterWrite : Prop :=
  ∀ (x : Regs) (i j : RegIdx) (v : Word),
    (i ≠ 0 → (x.set i v).get i = v) ∧ (x.set 0 v).get 0 = 0 ∧ x.get 0 = 0 ∧
    (j ≠ i → (x.set i v).get j = x.get j)

/-- An instruction whose destination is `x0` still makes its memory access, its bounds check and
its pc update; only the register write is dropped (10_state.md section 1, which marks this as its
own consequence; decision D12). -/
def Obligations.WritesToZeroRegisterAreDropped : Prop :=
  ∀ (i : Instr) (s : State), i.destination = some 0 →
    ((∀ a n, dataAccess i s = some (a, n) → InBounds s a n) →
      ∃ t, exec i s = .next t ∧ MovesOnlyPc s t ((redirect i s).getD (s.pc + 4))) ∧
    (∀ a n, dataAccess i s = some (a, n) → ¬ InBounds s a n →
      exec i s = .fault (.outOfBounds a n))

/-! ### Memory -/

/-- R58 with R53's bounds check and R54's payload. -/
def Obligations.MemReadIsLittleEndianAndChecked : Prop :=
  ∀ (s : State) (a : Word) (n : Nat),
    (InBounds s a n → s.memRead a n = .ok (MemValue s a n) ∧ MemValue s a n < 2 ^ (8 * n)) ∧
    (¬ InBounds s a n → s.memRead a n = .error (.outOfBounds a n))

/-- R59: exactly the `n` bytes at `a` change, and an access out of bounds writes nothing. -/
def Obligations.MemWriteSetsExactlyItsBytes : Prop :=
  ∀ (s : State) (a : Word) (n : Nat) (v : Word),
    (InBounds s a n → ∃ t, s.memWrite a n v = .ok t ∧ MemoryAfterStore s t a n v ∧
      t.x = s.x ∧ t.pc = s.pc ∧ t.config = s.config) ∧
    (¬ InBounds s a n → s.memWrite a n v = .error (.outOfBounds a n))

/-- Mixed widths see the byte array and nothing else (20_memory.md section 2, which marks this as
its own consequence): a narrow read inside a wide write, and a wide read over two adjacent narrow
writes. The configuration is legal and the whole range is in Memory, so that no address wraps. -/
def Obligations.MixedWidthAccessesSeeBytes : Prop :=
  (∀ (s t : State) (a v : Word) (n k m : Nat), s.config.Legal → s.memWrite a n v = .ok t →
    n ≤ 8 → 1 ≤ m → k + m ≤ n →
    t.memRead (a + BitVec.ofNat 64 k) m = .ok (v.toNat / 2 ^ (8 * k) % 2 ^ (8 * m))) ∧
  (∀ (s t : State) (a v v' : Word) (n m : Nat), s.config.Legal → 1 ≤ n → n ≤ 8 → 1 ≤ m →
    m ≤ 8 → InBounds s a (n + m) → s.memWrite a n v = .ok t →
    ∃ u, t.memWrite (a + BitVec.ofNat 64 n) m v' = .ok u ∧
      u.memRead a (n + m)
        = .ok (v.toNat % 2 ^ (8 * n) + 2 ^ (8 * n) * (v'.toNat % 2 ^ (8 * m))))

/-- Equal memories are equal data: two canonical memories that read alike are the same list (the
model's own form, log entry 5). -/
def Obligations.CanonicalMemoriesAreEqual : Prop :=
  ∀ (capacity : Nat) (m m' : Memory), m.wf capacity → m'.wf capacity →
    (∀ i, m.readByte i = m'.readByte i) → m = m'

/-! ### Reset and the invariant -/

/-- Construction (70_reset_and_hazards.md section 1; the zero registers are decision D4, log entry
2, the pc is decision D11): for every legal configuration, and for the default one of
`State.reset` (log entry 1). An illegal configuration is refused (log entry 6). -/
def Obligations.ConstructionGivesResetState : Prop :=
  (∀ c : Config, c.Legal → ∃ s, construct c = some ⟨s, true⟩ ∧ s.config = c ∧
    s.pc = c.baseOffset ∧ (∀ r, s.readReg r = 0) ∧ ∀ i, s.mem.readByte i = 0) ∧
  (∀ c : Config, ¬ c.Legal → construct c = none) ∧
  construct { baseOffset := 0x80200000, memCapacity := 1048576 } = some ⟨State.reset, true⟩

/-- The invariant holds after construction (log entries 1 and 5). -/
def Obligations.ConstructionMeetsInvariant : Prop :=
  ∀ (c : Config) (e : Emulator), construct c = some e → e.state.Inv

/-- Every step keeps the invariant and the configuration: Memory keeps its canonical form inside
its capacity, whose size never changes (10_state.md sections 3 and 4). -/
def Obligations.StepKeepsInvariant : Prop :=
  ∀ s t : State, s.Inv → step s = .next t → t.Inv ∧ t.config = s.config

/-- So does every run, from any state that meets the invariant (40_step_cycle.md section 3). -/
def Obligations.RunsKeepInvariant : Prop :=
  ∀ (k : Nat) (s t : State), s.Inv → Sys2Proof.core.run k s = .next t →
    t.Inv ∧ t.config = s.config

/-! ### The step -/

/-- A step runs the decoded instruction (40_step_cycle.md R140, R142, R143): when the four bytes at
the pc decode to an instruction, the step is that instruction's rule. -/
def Obligations.StepRunsDecodedInstruction : Prop :=
  ∀ (s : State) (i : Instr), InBounds s s.pc 4 →
    decodeBytes (s.mem.readByte (s.index s.pc).toNat) (s.mem.readByte ((s.index s.pc).toNat + 1))
      (s.mem.readByte ((s.index s.pc).toNat + 2)) (s.mem.readByte ((s.index s.pc).toNat + 3))
      = .ok i →
    step s = exec i s ∧ i.wf = true

/-- R141: the fetch, and the step's failure when it is out of bounds. -/
def Obligations.FetchReadsFourBytesAtPc : Prop :=
  ∀ s : State,
    (InBounds s s.pc 4 → s.fetch = .ok (BitVec.ofNat 32 (MemValue s s.pc 4)) ∧
      MemValue s s.pc 4 < 2 ^ 32) ∧
    (¬ InBounds s s.pc 4 → step s = .fault (.outOfBounds s.pc 4))

/-- R324: a step fails exactly with the first of the four conditions it meets, in this order, which
is the spec's own decision D13. -/
def Obligations.ErrorsComeInPriorityOrder : Prop :=
  ∀ (s : State) (f : Fault), step s = .fault f ↔
    (¬ InBounds s s.pc 4 ∧ f = .outOfBounds s.pc 4) ∨
    (InBounds s s.pc 4 ∧ ∃ w, s.fetch = .ok w ∧
      ((opcodeOf w ∉ supportedOpcodes ∧ f = .unsupportedOpcode (opcodeOf w)) ∨
       (UnsupportedFunctWord w ∧
         f = .unsupportedFunct (opcodeOf w) (funct3Of w) (funct7Of w)) ∨
       (∃ i a n, decode w = .ok i ∧ dataAccess i s = some (a, n) ∧ ¬ InBounds s a n ∧
         f = .outOfBounds a n)))

/-- No step and no instruction is refused: every word either executes or fails with one of the
three errors (60_exceptions.md section 2, which marks this as its own consequence). -/
def Obligations.NothingIsRefused : Prop :=
  (∀ (s : State) (r : Refusal), step s ≠ .refused r) ∧
  (∀ (i : Instr) (s : State) (r : Refusal), exec i s ≠ .refused r)

/-- An instruction's own rule fails only on its one data access (40_step_cycle.md R144), and not
when that is in bounds or there is none. -/
def Obligations.HandlersFailOnlyOutOfBounds : Prop :=
  ∀ (i : Instr) (s : State),
    ((∀ a n, dataAccess i s = some (a, n) → InBounds s a n) → ∃ t, exec i s = .next t) ∧
    (∀ a n, dataAccess i s = some (a, n) → ¬ InBounds s a n →
      exec i s = .fault (.outOfBounds a n))

/-- R146 and R147: the pc moves by 4, or to the target of JAL, JALR and a taken branch. -/
def Obligations.PcIsSequencedOrRedirected : Prop :=
  ∀ (i : Instr) (s t : State), exec i s = .next t →
    t.pc = match redirect i s with
      | some target => target
      | none => s.pc + 4

/-- Only SB, SH, SW and SD change Memory (10_state.md section 3). -/
def Obligations.OnlyStoresChangeMemory : Prop :=
  ∀ (i : Instr) (s t : State), i.isStore = false → exec i s = .next t → SameMemory s t

/-- Only the named destination register changes (40_step_cycle.md section 1). -/
def Obligations.OnlyTheDestinationRegisterChanges : Prop :=
  ∀ (i : Instr) (s t : State) (r : RegIdx), exec i s = .next t → i.destination ≠ some r →
    t.readReg r = s.readReg r

/-- The halt (60_exceptions.md section 2; 40_step_cycle.md section 3): a run goes on past a state
exactly when nothing there stops the hart; and where something does, every further step, however
often the host calls it, leaves the registers, the pc and every byte as they were and fails with
that same error. That every failing step is atomic, and that no halt is stored, is the spec's own
decision D10 (log entry 4). -/
def Obligations.HaltIsForEver : Prop :=
  ∀ (k : Nat) (s t : State), Sys2Proof.core.run k s = .next t →
    (∀ f, HaltCause t f → ∀ m : Nat, State.afterSteps (k + m) s = t ∧
      step (State.afterSteps (k + m) s) = .fault f ∧
      Sys2Proof.core.run (k + m + 1) s = .fault f) ∧
    ((∀ f, ¬ HaltCause t f) → ∃ u, step t = .next u ∧ State.afterSteps (k + 1) s = u ∧
      Sys2Proof.core.run (k + 1) s = .next u)

/-- A step is a function of the registers, the pc and the bytes it accesses: two states that differ
only in other bytes of Memory fail alike, or both go on, alike in registers and pc, and alike in
every byte in which they were alike (40_step_cycle.md sections 1 and 2). -/
def Obligations.StepDependsOnAccessedBytesOnly : Prop :=
  ∀ s s' : State, s.config = s'.config → s.x = s'.x → s.pc = s'.pc →
    (∀ k < 4, s.mem.readByte ((s.index s.pc).toNat + k)
      = s'.mem.readByte ((s.index s.pc).toNat + k)) →
    (∀ w i a n, s.fetch = .ok w → decode w = .ok i → dataAccess i s = some (a, n) →
      ∀ k < n, s.mem.readByte ((s.index a).toNat + k) = s'.mem.readByte ((s.index a).toNat + k)) →
    (∀ f, step s = .fault f → step s' = .fault f) ∧
    (∀ t, step s = .next t → ∃ t', step s' = .next t' ∧ t'.config = t.config ∧ t'.x = t.x ∧
      t'.pc = t.pc ∧
      ∀ j, s.mem.readByte j = s'.mem.readByte j → t.mem.readByte j = t'.mem.readByte j)

/-- R302 and R303: a step that fetches ECALL, EBREAK or any other word with opcode `0x73` stops the
hart, and changes nothing. -/
def Obligations.SystemWordsStopTheHart : Prop :=
  ∀ (s : State) (w : InstrWord), s.fetch = .ok w →
    (w = 0x00000073 ∨ w = 0x00100073 ∨ opcodeOf w = 0x73) →
    step s = .fault (.unsupportedOpcode 0x73) ∧ s.afterStep = s

/-- Never-written Memory is no instruction: after construction with nothing loaded the first step
stops with opcode `0x00` (30_encoding.md section 6, which marks this as its own consequence). -/
def Obligations.ZeroedMemoryStopsTheHart : Prop :=
  ∀ (c : Config) (e : Emulator), construct c = some e → 4 ≤ c.memCapacity →
    step e.state = .fault (.unsupportedOpcode 0x00)

/-! ### Loads and stores -/

/-- R161, R162, R163; that a load to `x0` still makes its access is the spec's decision D12. -/
def Obligations.SignedLoads : Prop :=
  DecodesExactly 0x0000707F 0x00000003 (fun w => .lb (rdOf w) (rs1Of w) (immIOf w)) ∧
  LoadsReg .lb 1 (fun v => BitVec.ofInt 64 (Int.bmod v (2 ^ 8))) ∧
  DecodesExactly 0x0000707F 0x00001003 (fun w => .lh (rdOf w) (rs1Of w) (immIOf w)) ∧
  LoadsReg .lh 2 (fun v => BitVec.ofInt 64 (Int.bmod v (2 ^ 16))) ∧
  DecodesExactly 0x0000707F 0x00002003 (fun w => .lw (rdOf w) (rs1Of w) (immIOf w)) ∧
  LoadsReg .lw 4 (fun v => BitVec.ofInt 64 (Int.bmod v (2 ^ 32)))

/-- R164, R165, R166, R167; `x0` as in `SignedLoads`. -/
def Obligations.DoubleAndUnsignedLoads : Prop :=
  DecodesExactly 0x0000707F 0x00003003 (fun w => .ld (rdOf w) (rs1Of w) (immIOf w)) ∧
  LoadsReg .ld 8 (fun v => BitVec.ofNat 64 v) ∧
  DecodesExactly 0x0000707F 0x00004003 (fun w => .lbu (rdOf w) (rs1Of w) (immIOf w)) ∧
  LoadsReg .lbu 1 (fun v => BitVec.ofNat 64 v) ∧
  DecodesExactly 0x0000707F 0x00005003 (fun w => .lhu (rdOf w) (rs1Of w) (immIOf w)) ∧
  LoadsReg .lhu 2 (fun v => BitVec.ofNat 64 v) ∧
  DecodesExactly 0x0000707F 0x00006003 (fun w => .lwu (rdOf w) (rs1Of w) (immIOf w)) ∧
  LoadsReg .lwu 4 (fun v => BitVec.ofNat 64 v)

/-- R241, R242, R243, R244. -/
def Obligations.Stores : Prop :=
  DecodesExactly 0x0000707F 0x00000023 (fun w => .sb (rs1Of w) (rs2Of w) (immSOf w)) ∧
  StoresReg .sb 1 ∧
  DecodesExactly 0x0000707F 0x00001023 (fun w => .sh (rs1Of w) (rs2Of w) (immSOf w)) ∧
  StoresReg .sh 2 ∧
  DecodesExactly 0x0000707F 0x00002023 (fun w => .sw (rs1Of w) (rs2Of w) (immSOf w)) ∧
  StoresReg .sw 4 ∧
  DecodesExactly 0x0000707F 0x00003023 (fun w => .sd (rs1Of w) (rs2Of w) (immSOf w)) ∧
  StoresReg .sd 8

/-- "a following `ld` from the same address returns" what `sd` stored, at any address in Memory,
aligned or not (44_stores.md section on SD; 20_memory.md sections 4 and 6). The base register of
the load is the store's. -/
def Obligations.DoubleStoredIsLoadedBack : Prop :=
  ∀ (s t : State) (rd rs1 rs2 : RegIdx) (imm : Word), exec (.sd rs1 rs2 imm) s = .next t →
    ∃ u, exec (.ld rd rs1 imm) t = .next u ∧ WritesOnlyReg t u rd (s.readReg rs2)

/-- A store is seen by the very next fetch, with no fence (20_memory.md section 6, which marks this
as its own consequence). -/
def Obligations.NextFetchSeesTheStore : Prop :=
  ∀ (s t : State) (rs1 rs2 : RegIdx) (imm : Word), exec (.sw rs1 rs2 imm) s = .next t →
    s.readReg rs1 + imm = s.pc + 4 →
    t.fetch = .ok (BitVec.ofNat 32 (s.readReg rs2).toNat)

/-! ### Integer register-register -/

/-- R181, R182: modulo `2^64`. -/
def Obligations.AddAndSubtract : Prop :=
  DecodesExactly 0xFE00707F 0x00000033 (fun w => .add (rdOf w) (rs1Of w) (rs2Of w)) ∧
  ComputesReg .add (fun a b => BitVec.ofNat 64 (a.toNat + b.toNat)) ∧
  DecodesExactly 0xFE00707F 0x40000033 (fun w => .sub (rdOf w) (rs1Of w) (rs2Of w)) ∧
  ComputesReg .sub (fun a b => BitVec.ofInt 64 ((a.toNat : Int) - b.toNat))

/-- R186, R189, R190. -/
def Obligations.LogicalOnRegisters : Prop :=
  DecodesExactly 0xFE00707F 0x00004033 (fun w => .xor (rdOf w) (rs1Of w) (rs2Of w)) ∧
  ComputesReg .xor (fun a b => BitVec.ofNat 64 (a.toNat ^^^ b.toNat)) ∧
  DecodesExactly 0xFE00707F 0x00006033 (fun w => .or (rdOf w) (rs1Of w) (rs2Of w)) ∧
  ComputesReg .or (fun a b => BitVec.ofNat 64 (a.toNat ||| b.toNat)) ∧
  DecodesExactly 0xFE00707F 0x00007033 (fun w => .and (rdOf w) (rs1Of w) (rs2Of w)) ∧
  ComputesReg .and (fun a b => BitVec.ofNat 64 (a.toNat &&& b.toNat))

/-- R183, R187, R188: the amount is `x[rs2][5:0]`; SRA gives `floor(s(x[rs1]) / 2^n)`. -/
def Obligations.ShiftsByRegister : Prop :=
  DecodesExactly 0xFE00707F 0x00001033 (fun w => .sll (rdOf w) (rs1Of w) (rs2Of w)) ∧
  ComputesReg .sll (fun a b => BitVec.ofNat 64 (a.toNat * 2 ^ (b.toNat % 64))) ∧
  DecodesExactly 0xFE00707F 0x00005033 (fun w => .srl (rdOf w) (rs1Of w) (rs2Of w)) ∧
  ComputesReg .srl (fun a b => BitVec.ofNat 64 (a.toNat / 2 ^ (b.toNat % 64))) ∧
  DecodesExactly 0xFE00707F 0x40005033 (fun w => .sra (rdOf w) (rs1Of w) (rs2Of w)) ∧
  ComputesReg .sra (fun a b => BitVec.ofInt 64 (a.toInt / 2 ^ (b.toNat % 64)))

/-- R184, R185: the signed and the unsigned reading. -/
def Obligations.SetLessOnRegisters : Prop :=
  DecodesExactly 0xFE00707F 0x00002033 (fun w => .slt (rdOf w) (rs1Of w) (rs2Of w)) ∧
  ComputesReg .slt (fun a b => if a.toInt < b.toInt then 1 else 0) ∧
  DecodesExactly 0xFE00707F 0x00003033 (fun w => .sltu (rdOf w) (rs1Of w) (rs2Of w)) ∧
  ComputesReg .sltu (fun a b => if a.toNat < b.toNat then 1 else 0)

/-- R191, R192: modulo `2^32`, then sign-extended. -/
def Obligations.AddAndSubtractWords : Prop :=
  DecodesExactly 0xFE00707F 0x0000003B (fun w => .addw (rdOf w) (rs1Of w) (rs2Of w)) ∧
  ComputesReg .addw (fun a b => BitVec.ofInt 64 (Int.bmod (a.toNat + b.toNat : Nat) (2 ^ 32))) ∧
  DecodesExactly 0xFE00707F 0x4000003B (fun w => .subw (rdOf w) (rs1Of w) (rs2Of w)) ∧
  ComputesReg .subw
    (fun a b => BitVec.ofInt 64 (Int.bmod ((a.toNat : Int) - b.toNat) (2 ^ 32)))

/-- R193, R194, R195: on the low 32 bits, by `x[rs2][4:0]`, the result sign-extended. -/
def Obligations.ShiftsOfWordsByRegister : Prop :=
  DecodesExactly 0xFE00707F 0x0000103B (fun w => .sllw (rdOf w) (rs1Of w) (rs2Of w)) ∧
  ComputesReg .sllw
    (fun a b => BitVec.ofInt 64 (Int.bmod (a.toNat * 2 ^ (b.toNat % 32) : Nat) (2 ^ 32))) ∧
  DecodesExactly 0xFE00707F 0x0000503B (fun w => .srlw (rdOf w) (rs1Of w) (rs2Of w)) ∧
  ComputesReg .srlw (fun a b =>
    BitVec.ofInt 64 (Int.bmod (a.toNat % 2 ^ 32 / 2 ^ (b.toNat % 32) : Nat) (2 ^ 32))) ∧
  DecodesExactly 0xFE00707F 0x4000503B (fun w => .sraw (rdOf w) (rs1Of w) (rs2Of w)) ∧
  ComputesReg .sraw
    (fun a b => BitVec.ofInt 64 (Int.bmod a.toNat (2 ^ 32) / 2 ^ (b.toNat % 32)))

/-! ### Integer register-immediate -/

/-- R211, R220. -/
def Obligations.AddImmediate : Prop :=
  DecodesExactly 0x0000707F 0x00000013 (fun w => .addi (rdOf w) (rs1Of w) (immIOf w)) ∧
  ComputesImm .addi (fun a imm => BitVec.ofInt 64 ((a.toNat : Int) + imm.toInt)) ∧
  DecodesExactly 0x0000707F 0x0000001B (fun w => .addiw (rdOf w) (rs1Of w) (immIOf w)) ∧
  ComputesImm .addiw
    (fun a imm => BitVec.ofInt 64 (Int.bmod ((a.toNat : Int) + imm.toInt) (2 ^ 32)))

/-- R212, R213: SLTIU compares with the sign-extended immediate read as unsigned. -/
def Obligations.SetLessImmediate : Prop :=
  DecodesExactly 0x0000707F 0x00002013 (fun w => .slti (rdOf w) (rs1Of w) (immIOf w)) ∧
  ComputesImm .slti (fun a imm => if a.toInt < imm.toInt then 1 else 0) ∧
  DecodesExactly 0x0000707F 0x00003013 (fun w => .sltiu (rdOf w) (rs1Of w) (immIOf w)) ∧
  ComputesImm .sltiu (fun a imm => if a.toNat < imm.toNat then 1 else 0)

/-- R214, R215, R216. -/
def Obligations.LogicalImmediate : Prop :=
  DecodesExactly 0x0000707F 0x00004013 (fun w => .xori (rdOf w) (rs1Of w) (immIOf w)) ∧
  ComputesImm .xori (fun a imm => BitVec.ofNat 64 (a.toNat ^^^ imm.toNat)) ∧
  DecodesExactly 0x0000707F 0x00006013 (fun w => .ori (rdOf w) (rs1Of w) (immIOf w)) ∧
  ComputesImm .ori (fun a imm => BitVec.ofNat 64 (a.toNat ||| imm.toNat)) ∧
  DecodesExactly 0x0000707F 0x00007013 (fun w => .andi (rdOf w) (rs1Of w) (immIOf w)) ∧
  ComputesImm .andi (fun a imm => BitVec.ofNat 64 (a.toNat &&& imm.toNat))

/-- R217, R218, R219: the amount is the word's bits 25:20, for SRAI too, whose I-immediate has bit 10
set; `word[31:26]` must be the row's. -/
def Obligations.ShiftsByConstant : Prop :=
  DecodesExactly 0xFC00707F 0x00001013 (fun w => .slli (rdOf w) (rs1Of w) (w.extractLsb' 20 6)) ∧
  ComputesShift .slli (fun a n => BitVec.ofNat 64 (a.toNat * 2 ^ n)) ∧
  DecodesExactly 0xFC00707F 0x00005013 (fun w => .srli (rdOf w) (rs1Of w) (w.extractLsb' 20 6)) ∧
  ComputesShift .srli (fun a n => BitVec.ofNat 64 (a.toNat / 2 ^ n)) ∧
  DecodesExactly 0xFC00707F 0x40005013 (fun w => .srai (rdOf w) (rs1Of w) (w.extractLsb' 20 6)) ∧
  ComputesShift .srai (fun a n => BitVec.ofInt 64 (a.toInt / 2 ^ n)) ∧
  (∀ w : InstrWord, w &&& 0xFC00707F = 0x40005013 →
    (immIOf w).getLsbD 10 = true ∧ (immIOf w).extractLsb' 0 6 = w.extractLsb' 20 6) ∧
  (∀ w : InstrWord, opcodeOf w = 0x13 → funct3Of w = 1 → funct6Of w ≠ 0 →
    decode w = .error (.unsupportedFunct 0x13 1 (funct7Of w)))

/-- R221, R222, R223: the amount is the word's bits 24:20; `word[25] = 1` is no encoding of a shift. -/
def Obligations.ShiftsOfWordsByConstant : Prop :=
  DecodesExactly 0xFE00707F 0x0000101B (fun w => .slliw (rdOf w) (rs1Of w) (w.extractLsb' 20 5)) ∧
  ComputesShift .slliw
    (fun a n => BitVec.ofInt 64 (Int.bmod (a.toNat * 2 ^ n : Nat) (2 ^ 32))) ∧
  DecodesExactly 0xFE00707F 0x0000501B (fun w => .srliw (rdOf w) (rs1Of w) (w.extractLsb' 20 5)) ∧
  ComputesShift .srliw
    (fun a n => BitVec.ofInt 64 (Int.bmod (a.toNat % 2 ^ 32 / 2 ^ n : Nat) (2 ^ 32))) ∧
  DecodesExactly 0xFE00707F 0x4000501B (fun w => .sraiw (rdOf w) (rs1Of w) (w.extractLsb' 20 5)) ∧
  ComputesShift .sraiw (fun a n => BitVec.ofInt 64 (Int.bmod a.toNat (2 ^ 32) / 2 ^ n)) ∧
  (∀ w : InstrWord, opcodeOf w = 0x1B → funct3Of w = 1 → funct7Of w ≠ 0 →
    decode w = .error (.unsupportedFunct 0x1B 1 (funct7Of w)))

/-! ### Branches, jumps, upper immediates, FENCE -/

/-- R261, R262. -/
def Obligations.BranchesOnEquality : Prop :=
  DecodesExactly 0x0000707F 0x00000063 (fun w => .beq (rs1Of w) (rs2Of w) (immBOf w)) ∧
  BranchesWhen .beq (fun a b => a = b) ∧
  DecodesExactly 0x0000707F 0x00001063 (fun w => .bne (rs1Of w) (rs2Of w) (immBOf w)) ∧
  BranchesWhen .bne (fun a b => a ≠ b)

/-- R263, R264. -/
def Obligations.BranchesOnSignedOrder : Prop :=
  DecodesExactly 0x0000707F 0x00004063 (fun w => .blt (rs1Of w) (rs2Of w) (immBOf w)) ∧
  BranchesWhen .blt (fun a b => a.toInt < b.toInt) ∧
  DecodesExactly 0x0000707F 0x00005063 (fun w => .bge (rs1Of w) (rs2Of w) (immBOf w)) ∧
  BranchesWhen .bge (fun a b => a.toInt ≥ b.toInt)

/-- R265, R266. -/
def Obligations.BranchesOnUnsignedOrder : Prop :=
  DecodesExactly 0x0000707F 0x00006063 (fun w => .bltu (rs1Of w) (rs2Of w) (immBOf w)) ∧
  BranchesWhen .bltu (fun a b => a.toNat < b.toNat) ∧
  DecodesExactly 0x0000707F 0x00007063 (fun w => .bgeu (rs1Of w) (rs2Of w) (immBOf w)) ∧
  BranchesWhen .bgeu (fun a b => a.toNat ≥ b.toNat)

/-- R280, R281: the link is `pc + 4`; JALR's target is the old `x[rs1]` plus the immediate with bit 0
cleared, also when `rd = rs1`; neither ever fails. -/
def Obligations.JumpsLinkAndRedirect : Prop :=
  DecodesExactly 0x0000007F 0x0000006F (fun w => .jal (rdOf w) (immJOf w)) ∧
  (∀ (rd : RegIdx) (imm : Word) (s : State), ∃ t, exec (.jal rd imm) s = .next t ∧
    LinksAndMovesPc s t rd (BitVec.ofInt 64 ((s.pc.toNat : Int) + imm.toInt))) ∧
  DecodesExactly 0x0000707F 0x00000067 (fun w => .jalr (rdOf w) (rs1Of w) (immIOf w)) ∧
  (∀ (rd rs1 : RegIdx) (imm : Word) (s : State), ∃ t, exec (.jalr rd rs1 imm) s = .next t ∧
    LinksAndMovesPc s t rd (BitVec.ofNat 64 ((s.readReg rs1 + imm).toNat / 2 * 2)))

/-- R290, R291. -/
def Obligations.UpperImmediates : Prop :=
  DecodesExactly 0x0000007F 0x00000037 (fun w => .lui (rdOf w) (immUOf w)) ∧
  (∀ (rd : RegIdx) (imm : Word) (s : State), ∃ t, exec (.lui rd imm) s = .next t ∧
    WritesOnlyReg s t rd imm) ∧
  DecodesExactly 0x0000007F 0x00000017 (fun w => .auipc (rdOf w) (immUOf w)) ∧
  (∀ (rd : RegIdx) (imm : Word) (s : State), ∃ t, exec (.auipc rd imm) s = .next t ∧
    WritesOnlyReg s t rd (BitVec.ofInt 64 ((s.pc.toNat : Int) + imm.toInt)))

/-- R300: whatever its other bits, the word only advances the pc. -/
def Obligations.FenceOnlyAdvances : Prop :=
  (∀ w : InstrWord, w &&& 0x0000707F = 0x0000000F ↔
    ∃ fm pred succ rs1 rd, decode w = .ok (.fence fm pred succ rs1 rd)) ∧
  (∀ (fm pred succ : BitVec 4) (rs1 rd : RegIdx) (s : State),
    ∃ t, exec (.fence fm pred succ rs1 rd) s = .next t ∧ MovesOnlyPc s t (s.pc + 4))

/-! ### The host's operations -/

/-- R370, R371 and R372 with the choices of decision D15 (log entry 14). -/
def Obligations.InspectionsReadTheState : Prop :=
  ∀ s : State,
    (∀ r : RegIdx, s.inspectRegister r.toNat = some (s.readReg r)) ∧
    (∀ n : Nat, 32 ≤ n → s.inspectRegister n = none) ∧ s.inspectPc = s.pc ∧
    (∀ (a : Word) (n : Nat), InBounds s a n → ∃ bs, s.inspectMemory a n = .ok bs ∧
      bs.length = n ∧ ∀ k < n, bs[k]? = some (s.mem.readByte ((s.index a).toNat + k))) ∧
    (∀ (a : Word) (n : Nat), ¬ InBounds s a n → s.inspectMemory a n = .error (.outOfBounds a n))

/-- R368 as 90_conflicts.md C3 reads it, on a fresh instance, for any file whose table holds one LOAD
entry, for the base offset: the `N` bytes at `p_offset` land at index 0, the next 8 are zero, nothing
else changes. That any such list of at least 58 bytes is loaded, whatever its magic number and other
header fields, is the model's reading of the contract (DEDUCED, log entry 10); that it is loaded on
a fresh instance in any state, and then no more, is its choice (log entry 13); that no file bytes
are needed where `N = 0` is its choice (log entry 18). -/
def Obligations.LoaderPlacesOneSegment : Prop :=
  ∀ (file : List Byte) (s : State) (off N : Nat),
    58 ≤ file.length → fileField file 32 8 + 56 * fileField file 56 2 ≤ file.length →
    loadSegments file (fileField file 32 8) (fileField file 56 2)
      = [⟨1, off, s.config.baseOffset.toNat, N, N + 8⟩] →
    (N = 0 ∨ off + N ≤ file.length) → N + 8 ≤ s.config.memCapacity →
    ∃ t, loadImage file ⟨s, true⟩ = .next ⟨t, false⟩ ∧ t.config = s.config ∧ t.x = s.x ∧
      t.pc = s.pc ∧
      (∀ k, k < N → some (t.mem.readByte k) = file[off + k]?) ∧
      (∀ k, N ≤ k → k < N + 8 → t.mem.readByte k = 0) ∧
      (∀ k, N + 8 ≤ k → t.mem.readByte k = s.mem.readByte k)

/-- The Loader "writes Memory and nothing else (not the registers, not the pc)"
(70_reset_and_hazards.md section 2), and keeps the invariant. It runs once and before the first step
(decision D15, log entry 13): a later load is refused, and during a run the state after any calls of
the host is the one that its steps alone give, whatever inspections stand between them. -/
def Obligations.LoaderWritesMemoryOnly : Prop :=
  (∀ (file : List Byte) (e e' : Emulator), loadImage file e = .next e' →
    e.fresh = true ∧ e'.fresh = false ∧ e'.state.x = e.state.x ∧ e'.state.pc = e.state.pc ∧
      e'.state.config = e.state.config ∧ (e.state.Inv → e'.state.Inv)) ∧
  (∀ (file : List Byte) (e : Emulator), e.fresh = false →
    loadImage file e = .refused .notFresh) ∧
  (∀ (e e' : Emulator) (calls : List HostCall), e.fresh = false →
    e.afterCalls calls = some e' →
    e'.fresh = false ∧ e'.state = State.afterSteps (calls.count .step) e.state)

/-- A word placed for the next fetch is what the next step fetches (the model's own helper, log
entry 3). -/
def Obligations.PlacedWordIsFetched : Prop :=
  ∀ (s : State) (w : Nat), InBounds s s.pc 4 → w < 2 ^ 32 →
    (s.withFetchWord 32 w).fetch = .ok (BitVec.ofNat 32 w) ∧
    (s.withFetchWord 32 w).x = s.x ∧ (s.withFetchWord 32 w).pc = s.pc ∧
    (s.withFetchWord 32 w).config = s.config ∧
    ∀ i : Nat, ¬ (s.index s.pc ≤ i ∧ (i : Int) < s.index s.pc + 4) →
      (s.withFetchWord 32 w).mem.readByte i = s.mem.readByte i
end

