-- ==== Sys2Proof/Laws/Decode.lean ====
section
/-!
SUPPORT. The fields and immediates of the word that each format's encoder builds (spec/30_encoding.md
R92 to R103): every field reads back as it was written, and an immediate of the format reads back
as itself.
-/

namespace Sys2Proof

variable (funct7 : BitVec 7) (funct6 shamt : BitVec 6) (rs2 rs1 rd : RegIdx) (funct3 : BitVec 3)
  (opcode : BitVec 7) (imm : Word) (fm pred succ : BitVec 4)

/-! ### R-format (R93) -/

@[simp] theorem opcodeOf_rWord :
    opcodeOf (rWord funct7 rs2 rs1 funct3 rd opcode) = opcode := by
  refine BitVec.eq_of_getLsbD_eq fun i hi => ?_
  simp only [opcodeOf, rWord, BitVec.getLsbD_extractLsb', BitVec.getLsbD_append]
  interval_cases i <;> simp

@[simp] theorem rdOf_rWord :
    rdOf (rWord funct7 rs2 rs1 funct3 rd opcode) = rd := by
  refine BitVec.eq_of_getLsbD_eq fun i hi => ?_
  simp only [rdOf, rWord, BitVec.getLsbD_extractLsb', BitVec.getLsbD_append]
  interval_cases i <;> simp

@[simp] theorem funct3Of_rWord :
    funct3Of (rWord funct7 rs2 rs1 funct3 rd opcode) = funct3 := by
  refine BitVec.eq_of_getLsbD_eq fun i hi => ?_
  simp only [funct3Of, rWord, BitVec.getLsbD_extractLsb', BitVec.getLsbD_append]
  interval_cases i <;> simp

@[simp] theorem rs1Of_rWord :
    rs1Of (rWord funct7 rs2 rs1 funct3 rd opcode) = rs1 := by
  refine BitVec.eq_of_getLsbD_eq fun i hi => ?_
  simp only [rs1Of, rWord, BitVec.getLsbD_extractLsb', BitVec.getLsbD_append]
  interval_cases i <;> simp

@[simp] theorem rs2Of_rWord :
    rs2Of (rWord funct7 rs2 rs1 funct3 rd opcode) = rs2 := by
  refine BitVec.eq_of_getLsbD_eq fun i hi => ?_
  simp only [rs2Of, rWord, BitVec.getLsbD_extractLsb', BitVec.getLsbD_append]
  interval_cases i <;> simp

@[simp] theorem funct7Of_rWord :
    funct7Of (rWord funct7 rs2 rs1 funct3 rd opcode) = funct7 := by
  refine BitVec.eq_of_getLsbD_eq fun i hi => ?_
  simp only [funct7Of, rWord, BitVec.getLsbD_extractLsb', BitVec.getLsbD_append]
  interval_cases i <;> simp

@[simp] theorem shamt5Of_rWord : shamt5Of (rWord funct7 rs2 rs1 funct3 rd opcode) = rs2 :=
  rs2Of_rWord funct7 rs2 rs1 rd funct3 opcode

/-! ### I-format (R94) -/

@[simp] theorem opcodeOf_iWord :
    opcodeOf (iWord imm rs1 funct3 rd opcode) = opcode := by
  refine BitVec.eq_of_getLsbD_eq fun i hi => ?_
  simp only [opcodeOf, iWord, BitVec.getLsbD_extractLsb', BitVec.getLsbD_append]
  interval_cases i <;> simp

@[simp] theorem rdOf_iWord :
    rdOf (iWord imm rs1 funct3 rd opcode) = rd := by
  refine BitVec.eq_of_getLsbD_eq fun i hi => ?_
  simp only [rdOf, iWord, BitVec.getLsbD_extractLsb', BitVec.getLsbD_append]
  interval_cases i <;> simp

@[simp] theorem funct3Of_iWord :
    funct3Of (iWord imm rs1 funct3 rd opcode) = funct3 := by
  refine BitVec.eq_of_getLsbD_eq fun i hi => ?_
  simp only [funct3Of, iWord, BitVec.getLsbD_extractLsb', BitVec.getLsbD_append]
  interval_cases i <;> simp

@[simp] theorem rs1Of_iWord :
    rs1Of (iWord imm rs1 funct3 rd opcode) = rs1 := by
  refine BitVec.eq_of_getLsbD_eq fun i hi => ?_
  simp only [rs1Of, iWord, BitVec.getLsbD_extractLsb', BitVec.getLsbD_append]
  interval_cases i <;> simp

/-- An immediate that fits 12 bits reads back from the I-format word (R99). -/
theorem immIOf_iWord (h : immFits12 imm = true) : immIOf (iWord imm rs1 funct3 rd opcode) = imm := by
  have e : (iWord imm rs1 funct3 rd opcode).extractLsb' 20 12 = imm.setWidth 12 := by
    refine BitVec.eq_of_getLsbD_eq fun i hi => ?_
    simp only [iWord, BitVec.getLsbD_extractLsb', BitVec.getLsbD_append, BitVec.getLsbD_setWidth]
    interval_cases i <;> simp
  rw [immIOf, e]
  simpa [immFits12, sext] using h

/-! ### I-format with a 6-bit shift amount (R104) -/

@[simp] theorem opcodeOf_shiftWord :
    opcodeOf (shiftWord funct6 shamt rs1 funct3 rd opcode) = opcode := by
  refine BitVec.eq_of_getLsbD_eq fun i hi => ?_
  simp only [opcodeOf, shiftWord, BitVec.getLsbD_extractLsb', BitVec.getLsbD_append]
  interval_cases i <;> simp

@[simp] theorem rdOf_shiftWord :
    rdOf (shiftWord funct6 shamt rs1 funct3 rd opcode) = rd := by
  refine BitVec.eq_of_getLsbD_eq fun i hi => ?_
  simp only [rdOf, shiftWord, BitVec.getLsbD_extractLsb', BitVec.getLsbD_append]
  interval_cases i <;> simp

@[simp] theorem funct3Of_shiftWord :
    funct3Of (shiftWord funct6 shamt rs1 funct3 rd opcode) = funct3 := by
  refine BitVec.eq_of_getLsbD_eq fun i hi => ?_
  simp only [funct3Of, shiftWord, BitVec.getLsbD_extractLsb', BitVec.getLsbD_append]
  interval_cases i <;> simp

@[simp] theorem rs1Of_shiftWord :
    rs1Of (shiftWord funct6 shamt rs1 funct3 rd opcode) = rs1 := by
  refine BitVec.eq_of_getLsbD_eq fun i hi => ?_
  simp only [rs1Of, shiftWord, BitVec.getLsbD_extractLsb', BitVec.getLsbD_append]
  interval_cases i <;> simp

@[simp] theorem shamt6Of_shiftWord :
    shamt6Of (shiftWord funct6 shamt rs1 funct3 rd opcode) = shamt := by
  refine BitVec.eq_of_getLsbD_eq fun i hi => ?_
  simp only [shamt6Of, shiftWord, BitVec.getLsbD_extractLsb', BitVec.getLsbD_append]
  interval_cases i <;> simp

@[simp] theorem funct6Of_shiftWord :
    funct6Of (shiftWord funct6 shamt rs1 funct3 rd opcode) = funct6 := by
  refine BitVec.eq_of_getLsbD_eq fun i hi => ?_
  simp only [funct6Of, shiftWord, BitVec.getLsbD_extractLsb', BitVec.getLsbD_append]
  interval_cases i <;> simp

/-! ### S-format (R95) -/

@[simp] theorem opcodeOf_sWord :
    opcodeOf (sWord imm rs2 rs1 funct3 opcode) = opcode := by
  refine BitVec.eq_of_getLsbD_eq fun i hi => ?_
  simp only [opcodeOf, sWord, BitVec.getLsbD_extractLsb', BitVec.getLsbD_append]
  interval_cases i <;> simp

@[simp] theorem funct3Of_sWord :
    funct3Of (sWord imm rs2 rs1 funct3 opcode) = funct3 := by
  refine BitVec.eq_of_getLsbD_eq fun i hi => ?_
  simp only [funct3Of, sWord, BitVec.getLsbD_extractLsb', BitVec.getLsbD_append]
  interval_cases i <;> simp

@[simp] theorem rs1Of_sWord :
    rs1Of (sWord imm rs2 rs1 funct3 opcode) = rs1 := by
  refine BitVec.eq_of_getLsbD_eq fun i hi => ?_
  simp only [rs1Of, sWord, BitVec.getLsbD_extractLsb', BitVec.getLsbD_append]
  interval_cases i <;> simp

@[simp] theorem rs2Of_sWord :
    rs2Of (sWord imm rs2 rs1 funct3 opcode) = rs2 := by
  refine BitVec.eq_of_getLsbD_eq fun i hi => ?_
  simp only [rs2Of, sWord, BitVec.getLsbD_extractLsb', BitVec.getLsbD_append]
  interval_cases i <;> simp

/-- An immediate that fits 12 bits reads back from the S-format word (R100). -/
theorem immSOf_sWord (h : immFits12 imm = true) :
    immSOf (sWord imm rs2 rs1 funct3 opcode) = imm := by
  have e : ((sWord imm rs2 rs1 funct3 opcode).extractLsb' 25 7 ++
      (sWord imm rs2 rs1 funct3 opcode).extractLsb' 7 5 : BitVec 12) = imm.setWidth 12 := by
    refine BitVec.eq_of_getLsbD_eq fun i hi => ?_
    simp only [sWord, BitVec.getLsbD_extractLsb', BitVec.getLsbD_append, BitVec.getLsbD_setWidth]
    interval_cases i <;> simp
  rw [immSOf, e]
  simpa [immFits12, sext] using h

/-! ### B-format (R96) -/

@[simp] theorem opcodeOf_bWord :
    opcodeOf (bWord imm rs2 rs1 funct3 opcode) = opcode := by
  refine BitVec.eq_of_getLsbD_eq fun i hi => ?_
  simp only [opcodeOf, bWord, BitVec.getLsbD_extractLsb', BitVec.getLsbD_append]
  interval_cases i <;> simp

@[simp] theorem funct3Of_bWord :
    funct3Of (bWord imm rs2 rs1 funct3 opcode) = funct3 := by
  refine BitVec.eq_of_getLsbD_eq fun i hi => ?_
  simp only [funct3Of, bWord, BitVec.getLsbD_extractLsb', BitVec.getLsbD_append]
  interval_cases i <;> simp

@[simp] theorem rs1Of_bWord :
    rs1Of (bWord imm rs2 rs1 funct3 opcode) = rs1 := by
  refine BitVec.eq_of_getLsbD_eq fun i hi => ?_
  simp only [rs1Of, bWord, BitVec.getLsbD_extractLsb', BitVec.getLsbD_append]
  interval_cases i <;> simp

@[simp] theorem rs2Of_bWord :
    rs2Of (bWord imm rs2 rs1 funct3 opcode) = rs2 := by
  refine BitVec.eq_of_getLsbD_eq fun i hi => ?_
  simp only [rs2Of, bWord, BitVec.getLsbD_extractLsb', BitVec.getLsbD_append]
  interval_cases i <;> simp

/-- An even immediate that fits 13 bits reads back from the B-format word (R101). -/
theorem immBOf_bWord (h : immFitsBranch imm = true) :
    immBOf (bWord imm rs2 rs1 funct3 opcode) = imm := by
  simp only [immFitsBranch, Bool.and_eq_true, beq_iff_eq, Bool.not_eq_true'] at h
  have h0 : imm[0] = false := by simpa using h.2
  have e : ((bWord imm rs2 rs1 funct3 opcode).extractLsb' 31 1 ++
      (bWord imm rs2 rs1 funct3 opcode).extractLsb' 7 1 ++
      (bWord imm rs2 rs1 funct3 opcode).extractLsb' 25 6 ++
      (bWord imm rs2 rs1 funct3 opcode).extractLsb' 8 4 ++ 0#1 : BitVec 13) = imm.setWidth 13 := by
    refine BitVec.eq_of_getLsbD_eq fun i hi => ?_
    simp only [bWord, BitVec.getLsbD_extractLsb', BitVec.getLsbD_append, BitVec.getLsbD_setWidth]
    interval_cases i <;> simp [h0]
  rw [immBOf, e]
  exact h.1

/-! ### U-format (R97) -/

@[simp] theorem opcodeOf_uWord :
    opcodeOf (uWord imm rd opcode) = opcode := by
  refine BitVec.eq_of_getLsbD_eq fun i hi => ?_
  simp only [opcodeOf, uWord, BitVec.getLsbD_extractLsb', BitVec.getLsbD_append]
  interval_cases i <;> simp

@[simp] theorem rdOf_uWord :
    rdOf (uWord imm rd opcode) = rd := by
  refine BitVec.eq_of_getLsbD_eq fun i hi => ?_
  simp only [rdOf, uWord, BitVec.getLsbD_extractLsb', BitVec.getLsbD_append]
  interval_cases i <;> simp

/-- A U-immediate reads back from the U-format word (R102). -/
theorem immUOf_uWord (h : immFitsUpper imm = true) : immUOf (uWord imm rd opcode) = imm := by
  simp only [immFitsUpper, Bool.and_eq_true, beq_iff_eq] at h
  have low : ∀ (i : Nat) (hi : i < 12), imm[i] = false := fun i hi => by
    have := congrArg (fun v : BitVec 12 => v.getLsbD i) h.2
    rw [← BitVec.getLsbD_eq_getElem]
    simpa [hi] using this
  have e : ((uWord imm rd opcode).extractLsb' 12 20 ++ 0#12 : BitVec 32) = imm.setWidth 32 := by
    refine BitVec.eq_of_getLsbD_eq fun i hi => ?_
    simp only [uWord, BitVec.getLsbD_extractLsb', BitVec.getLsbD_append, BitVec.getLsbD_setWidth]
    interval_cases i <;> simp [low]
  rw [immUOf, e]
  exact h.1

/-! ### J-format (R98) -/

@[simp] theorem opcodeOf_jWord :
    opcodeOf (jWord imm rd opcode) = opcode := by
  refine BitVec.eq_of_getLsbD_eq fun i hi => ?_
  simp only [opcodeOf, jWord, BitVec.getLsbD_extractLsb', BitVec.getLsbD_append]
  interval_cases i <;> simp

@[simp] theorem rdOf_jWord :
    rdOf (jWord imm rd opcode) = rd := by
  refine BitVec.eq_of_getLsbD_eq fun i hi => ?_
  simp only [rdOf, jWord, BitVec.getLsbD_extractLsb', BitVec.getLsbD_append]
  interval_cases i <;> simp

/-- An even immediate that fits 21 bits reads back from the J-format word (R103). -/
theorem immJOf_jWord (h : immFitsJump imm = true) : immJOf (jWord imm rd opcode) = imm := by
  simp only [immFitsJump, Bool.and_eq_true, beq_iff_eq, Bool.not_eq_true'] at h
  have h0 : imm[0] = false := by simpa using h.2
  have e : ((jWord imm rd opcode).extractLsb' 31 1 ++ (jWord imm rd opcode).extractLsb' 12 8 ++
      (jWord imm rd opcode).extractLsb' 20 1 ++ (jWord imm rd opcode).extractLsb' 21 10 ++
      0#1 : BitVec 21) = imm.setWidth 21 := by
    refine BitVec.eq_of_getLsbD_eq fun i hi => ?_
    simp only [jWord, BitVec.getLsbD_extractLsb', BitVec.getLsbD_append, BitVec.getLsbD_setWidth]
    interval_cases i <;> simp [h0]
  rw [immJOf, e]
  exact h.1

/-! ### FENCE (R300) -/

@[simp] theorem opcodeOf_fenceWord :
    opcodeOf (fenceWord fm pred succ rs1 rd) = 0x0F#7 := by
  refine BitVec.eq_of_getLsbD_eq fun i hi => ?_
  simp only [opcodeOf, fenceWord, BitVec.getLsbD_extractLsb', BitVec.getLsbD_append]
  interval_cases i <;> simp

@[simp] theorem rdOf_fenceWord :
    rdOf (fenceWord fm pred succ rs1 rd) = rd := by
  refine BitVec.eq_of_getLsbD_eq fun i hi => ?_
  simp only [rdOf, fenceWord, BitVec.getLsbD_extractLsb', BitVec.getLsbD_append]
  interval_cases i <;> simp

@[simp] theorem funct3Of_fenceWord :
    funct3Of (fenceWord fm pred succ rs1 rd) = 0#3 := by
  refine BitVec.eq_of_getLsbD_eq fun i hi => ?_
  simp only [funct3Of, fenceWord, BitVec.getLsbD_extractLsb', BitVec.getLsbD_append]
  interval_cases i <;> simp

@[simp] theorem rs1Of_fenceWord :
    rs1Of (fenceWord fm pred succ rs1 rd) = rs1 := by
  refine BitVec.eq_of_getLsbD_eq fun i hi => ?_
  simp only [rs1Of, fenceWord, BitVec.getLsbD_extractLsb', BitVec.getLsbD_append]
  interval_cases i <;> simp

@[simp] theorem fm_fenceWord :
    (fenceWord fm pred succ rs1 rd).extractLsb' 28 4 = fm := by
  refine BitVec.eq_of_getLsbD_eq fun i hi => ?_
  simp only [fenceWord, BitVec.getLsbD_extractLsb', BitVec.getLsbD_append]
  interval_cases i <;> simp

@[simp] theorem pred_fenceWord :
    (fenceWord fm pred succ rs1 rd).extractLsb' 24 4 = pred := by
  refine BitVec.eq_of_getLsbD_eq fun i hi => ?_
  simp only [fenceWord, BitVec.getLsbD_extractLsb', BitVec.getLsbD_append]
  interval_cases i <;> simp

@[simp] theorem succ_fenceWord :
    (fenceWord fm pred succ rs1 rd).extractLsb' 20 4 = succ := by
  refine BitVec.eq_of_getLsbD_eq fun i hi => ?_
  simp only [fenceWord, BitVec.getLsbD_extractLsb', BitVec.getLsbD_append]
  interval_cases i <;> simp

/-! ### The selecting bits of each format (R109): the mask keeps the function codes and the opcode -/

theorem rWord_mask :
    rWord funct7 rs2 rs1 funct3 rd opcode &&& 0xFE00707F = rWord funct7 0 0 funct3 0 opcode := by
  refine BitVec.eq_of_getLsbD_eq fun i hi => ?_
  simp only [rWord, BitVec.getLsbD_and, BitVec.getLsbD_append]
  interval_cases i <;> simp

theorem iWord_mask : iWord imm rs1 funct3 rd opcode &&& 0x0000707F = iWord 0 0 funct3 0 opcode := by
  refine BitVec.eq_of_getLsbD_eq fun i hi => ?_
  simp only [iWord, BitVec.getLsbD_and, BitVec.getLsbD_append]
  interval_cases i <;> simp

theorem shiftWord_mask :
    shiftWord funct6 shamt rs1 funct3 rd opcode &&& 0xFC00707F = shiftWord funct6 0 0 funct3 0 opcode := by
  refine BitVec.eq_of_getLsbD_eq fun i hi => ?_
  simp only [shiftWord, BitVec.getLsbD_and, BitVec.getLsbD_append]
  interval_cases i <;> simp

theorem sWord_mask :
    sWord imm rs2 rs1 funct3 opcode &&& 0x0000707F = sWord 0 0 0 funct3 opcode := by
  refine BitVec.eq_of_getLsbD_eq fun i hi => ?_
  simp only [sWord, BitVec.getLsbD_and, BitVec.getLsbD_append]
  interval_cases i <;> simp

theorem bWord_mask :
    bWord imm rs2 rs1 funct3 opcode &&& 0x0000707F = bWord 0 0 0 funct3 opcode := by
  refine BitVec.eq_of_getLsbD_eq fun i hi => ?_
  simp only [bWord, BitVec.getLsbD_and, BitVec.getLsbD_append]
  interval_cases i <;> simp

theorem uWord_mask : uWord imm rd opcode &&& 0x0000007F = uWord 0 0 opcode := by
  refine BitVec.eq_of_getLsbD_eq fun i hi => ?_
  simp only [uWord, BitVec.getLsbD_and, BitVec.getLsbD_append]
  interval_cases i <;> simp

theorem jWord_mask : jWord imm rd opcode &&& 0x0000007F = jWord 0 0 opcode := by
  refine BitVec.eq_of_getLsbD_eq fun i hi => ?_
  simp only [jWord, BitVec.getLsbD_and, BitVec.getLsbD_append]
  interval_cases i <;> simp

theorem fenceWord_mask : fenceWord fm pred succ rs1 rd &&& 0x0000707F = fenceWord 0 0 0 0 0 := by
  refine BitVec.eq_of_getLsbD_eq fun i hi => ?_
  simp only [fenceWord, BitVec.getLsbD_and, BitVec.getLsbD_append]
  interval_cases i <;> simp

/-! ### A word from its own fields -/

/-- The R-format word of a word's own fields is the word (R92, R93). -/
theorem rWord_fields (w : InstrWord) :
    rWord (funct7Of w) (rs2Of w) (rs1Of w) (funct3Of w) (rdOf w) (opcodeOf w) = w := by
  refine BitVec.eq_of_getLsbD_eq fun i hi => ?_
  simp only [rWord, funct7Of, rs2Of, rs1Of, funct3Of, rdOf, opcodeOf, BitVec.getLsbD_extractLsb',
    BitVec.getLsbD_append]
  interval_cases i <;> simp

/-- As `rWord_fields` for the I-format (R94, R99). -/
theorem iWord_fields (w : InstrWord) :
    iWord (immIOf w) (rs1Of w) (funct3Of w) (rdOf w) (opcodeOf w) = w := by
  refine BitVec.eq_of_getLsbD_eq fun i hi => ?_
  simp only [iWord, immIOf, sext, rs1Of, funct3Of, rdOf, opcodeOf, BitVec.getLsbD_extractLsb',
    BitVec.getLsbD_append, BitVec.getLsbD_signExtend]
  interval_cases i <;> simp

/-- As `rWord_fields` for the I-format with a 6-bit shift amount (R104). -/
theorem shiftWord_fields (w : InstrWord) :
    shiftWord (funct6Of w) (shamt6Of w) (rs1Of w) (funct3Of w) (rdOf w) (opcodeOf w) = w := by
  refine BitVec.eq_of_getLsbD_eq fun i hi => ?_
  simp only [shiftWord, funct6Of, shamt6Of, rs1Of, funct3Of, rdOf, opcodeOf,
    BitVec.getLsbD_extractLsb', BitVec.getLsbD_append]
  interval_cases i <;> simp

/-- As `rWord_fields` for the S-format (R95, R100). -/
theorem sWord_fields (w : InstrWord) :
    sWord (immSOf w) (rs2Of w) (rs1Of w) (funct3Of w) (opcodeOf w) = w := by
  refine BitVec.eq_of_getLsbD_eq fun i hi => ?_
  simp only [sWord, immSOf, sext, rs2Of, rs1Of, funct3Of, opcodeOf, BitVec.getLsbD_extractLsb',
    BitVec.getLsbD_append, BitVec.getLsbD_signExtend]
  interval_cases i <;> simp

/-- As `rWord_fields` for the B-format (R96, R101). -/
theorem bWord_fields (w : InstrWord) :
    bWord (immBOf w) (rs2Of w) (rs1Of w) (funct3Of w) (opcodeOf w) = w := by
  refine BitVec.eq_of_getLsbD_eq fun i hi => ?_
  simp only [bWord, immBOf, sext, rs2Of, rs1Of, funct3Of, opcodeOf, BitVec.getLsbD_extractLsb',
    BitVec.getLsbD_append, BitVec.getLsbD_signExtend]
  interval_cases i <;> simp

/-- As `rWord_fields` for the U-format (R97, R102). -/
theorem uWord_fields (w : InstrWord) :
    uWord (immUOf w) (rdOf w) (opcodeOf w) = w := by
  refine BitVec.eq_of_getLsbD_eq fun i hi => ?_
  simp only [uWord, immUOf, sext, rdOf, opcodeOf, BitVec.getLsbD_extractLsb',
    BitVec.getLsbD_append, BitVec.getLsbD_signExtend]
  interval_cases i <;> simp

/-- As `rWord_fields` for the J-format (R98, R103). -/
theorem jWord_fields (w : InstrWord) :
    jWord (immJOf w) (rdOf w) (opcodeOf w) = w := by
  refine BitVec.eq_of_getLsbD_eq fun i hi => ?_
  simp only [jWord, immJOf, sext, rdOf, opcodeOf, BitVec.getLsbD_extractLsb',
    BitVec.getLsbD_append, BitVec.getLsbD_signExtend]
  interval_cases i <;> simp

/-- As `rWord_fields` for a FENCE word (R300). -/
theorem fenceWord_fields (w : InstrWord)
    (h3 : funct3Of w = 0#3) (ho : opcodeOf w = 0x0F#7) :
    fenceWord (w.extractLsb' 28 4) (w.extractLsb' 24 4) (w.extractLsb' 20 4) (rs1Of w) (rdOf w)
      = w := by
  unfold fenceWord
  rw [← h3, ← ho]
  refine BitVec.eq_of_getLsbD_eq fun i hi => ?_
  simp only [rs1Of, funct3Of, rdOf, opcodeOf, BitVec.getLsbD_extractLsb', BitVec.getLsbD_append]
  interval_cases i <;> simp

/-- Every immediate the decoder reads is one its format can produce (R99). -/
theorem immFits12_immIOf (w : InstrWord) :
    immFits12 (immIOf w) = true := by
  simp only [immFits12, immIOf, sext, beq_iff_eq]
  congr 1
  refine BitVec.eq_of_getLsbD_eq fun i hi => ?_
  simp only [BitVec.getLsbD_setWidth, BitVec.getLsbD_signExtend]
  interval_cases i <;> simp

/-- As `immFits12_immIOf` for the S-immediate (R100). -/
theorem immFits12_immSOf (w : InstrWord) :
    immFits12 (immSOf w) = true := by
  simp only [immFits12, immSOf, sext, beq_iff_eq]
  congr 1
  refine BitVec.eq_of_getLsbD_eq fun i hi => ?_
  simp only [BitVec.getLsbD_setWidth, BitVec.getLsbD_signExtend]
  interval_cases i <;> simp

/-- As `immFits12_immIOf` for the B-immediate (R101). -/
theorem immFitsBranch_immBOf (w : InstrWord) :
    immFitsBranch (immBOf w) = true := by
  simp only [immFitsBranch, immBOf, sext, beq_iff_eq, Bool.and_eq_true]
  constructor
  · congr 1
    refine BitVec.eq_of_getLsbD_eq fun i hi => ?_
    simp only [BitVec.getLsbD_setWidth, BitVec.getLsbD_signExtend]
    interval_cases i <;> simp
  · simp only [BitVec.getLsbD_signExtend, BitVec.getLsbD_append]; simp

/-- As `immFits12_immIOf` for the J-immediate (R103). -/
theorem immFitsJump_immJOf (w : InstrWord) :
    immFitsJump (immJOf w) = true := by
  simp only [immFitsJump, immJOf, sext, beq_iff_eq, Bool.and_eq_true]
  constructor
  · congr 1
    refine BitVec.eq_of_getLsbD_eq fun i hi => ?_
    simp only [BitVec.getLsbD_setWidth, BitVec.getLsbD_signExtend]
    interval_cases i <;> simp
  · simp only [BitVec.getLsbD_signExtend, BitVec.getLsbD_append]; simp

/-- As `immFits12_immIOf` for the U-immediate (R102). -/
theorem immFitsUpper_immUOf (w : InstrWord) :
    immFitsUpper (immUOf w) = true := by
  simp only [immFitsUpper, immUOf, sext, beq_iff_eq, Bool.and_eq_true]
  constructor
  · congr 1
    refine BitVec.eq_of_getLsbD_eq fun i hi => ?_
    simp only [BitVec.getLsbD_setWidth, BitVec.getLsbD_signExtend]
    interval_cases i <;> simp
  · refine BitVec.eq_of_getLsbD_eq fun i hi => ?_
    simp only [BitVec.getLsbD_setWidth, BitVec.getLsbD_signExtend, BitVec.getLsbD_append]
    interval_cases i <;> simp

end Sys2Proof
end

