-- ==== Sys2Proof/Laws/Memory.lean ====
section
/-!
SUPPORT. What a byte of Memory reads as after each operation of the Memory component, and that
each operation keeps the canonical form (spec/20_memory.md R53, R56, R61).
-/

namespace Sys2Proof.Machine

/-! ### One byte -/

theorem Memory.readByte_eraseByte (m : Memory) (i j : Nat) :
    (m.eraseByte i).readByte j = if j = i then Memory.unlisted else m.readByte j := by
  induction m with
  | nil => simp [Memory.eraseByte, Memory.readByte]
  | cons c rest ih =>
    obtain ⟨k, b⟩ := c
    simp only [Memory.eraseByte] at ih ⊢
    by_cases hk : k = i
    · subst hk
      rw [List.filter_cons_of_neg (by simp), ih]
      by_cases hj : j = k
      · simp [hj]
      · simp [hj, Memory.readByte, Ne.symm hj]
    · rw [List.filter_cons_of_pos (by simpa using hk)]
      simp only [Memory.readByte, ih]
      by_cases hj : j = i
      · subst hj; simp [hk]
      · simp [hj]

theorem Memory.readByte_insertByte (m : Memory) (i j : Nat) (b : Byte)
    (h : ∀ c ∈ m, c.1 ≠ i) :
    (m.insertByte i b).readByte j = if j = i then b else m.readByte j := by
  induction m with
  | nil => simp [Memory.insertByte, Memory.readByte, eq_comm]
  | cons c rest ih =>
    obtain ⟨k, c⟩ := c
    have hk : k ≠ i := h (k, c) (by simp)
    have ih := ih fun d hd => h d (by simp [hd])
    simp only [Memory.insertByte]
    split
    · by_cases hj : j = i
      · simp [Memory.readByte, hj]
      · simp [Memory.readByte, hj, Ne.symm hj]
    · by_cases hj : j = i
      · subst hj; simp [Memory.readByte, hk, ih]
      · simp [Memory.readByte, hj, ih]

theorem Memory.ne_of_mem_eraseByte {m : Memory} {i : Nat} : ∀ c ∈ m.eraseByte i, c.1 ≠ i := by
  intro c hc
  simpa using (List.mem_filter.mp hc).2

/-- A read after a write gives the byte written there, and every other byte as it was. It holds of
any list, canonical or not. -/
theorem Memory.readByte_writeByte (m : Memory) (i j : Nat) (b : Byte) :
    (m.writeByte i b).readByte j = if j = i then b else m.readByte j := by
  unfold Memory.writeByte
  split
  · next h => simp [Memory.readByte_eraseByte, h]
  · rw [Memory.readByte_insertByte _ _ _ _ Memory.ne_of_mem_eraseByte,
      Memory.readByte_eraseByte]
    split <;> rfl

/-! ### Several bytes -/

/-- What every byte reads as after a list of bytes is put at index `i`. -/
theorem Memory.readByte_setBytes (m : Memory) (i j : Nat) (bs : List Byte) :
    (m.setBytes i bs).readByte j =
      if i ≤ j ∧ j < i + bs.length then bs.getD (j - i) 0 else m.readByte j := by
  induction bs generalizing m i with
  | nil => simp [Memory.setBytes]
  | cons b bs ih =>
    simp only [Memory.setBytes, ih, Memory.readByte_writeByte, List.length_cons]
    by_cases hij : j = i
    · subst hij; simp
    · by_cases hin : i + 1 ≤ j ∧ j < i + 1 + bs.length
      · have : j - i = (j - (i + 1)) + 1 := by omega
        rw [if_pos hin, if_pos (by omega), this, List.getD_cons_succ]
      · rw [if_neg hin, if_neg hij, if_neg (by omega)]

@[simp] theorem leBytes_length (n : Nat) (v : Word) : (leBytes n v).length = n := by
  simp [leBytes]

theorem leBytes_getD (n : Nat) (v : Word) (k : Nat) (h : k < n) :
    (leBytes n v).getD k 0 = byteOf v k := by
  simp [leBytes, List.getD, h]

/-- The unsigned value of `n` bytes fits `8n` bits (R58). -/
theorem Memory.readBytes_lt (m : Memory) (i n : Nat) : m.readBytes i n < 2 ^ (8 * n) := by
  induction n with
  | zero => simp [Memory.readBytes]
  | succ n ih =>
    simp only [Memory.readBytes, List.range_succ, List.map_append, List.sum_append,
      List.map_cons, List.map_nil, List.sum_cons, List.sum_nil, Nat.add_zero] at ih ⊢
    have hb := (m.readByte (i + n)).isLt
    have : (m.readByte (i + n)).toNat * 2 ^ (8 * n) ≤ 255 * 2 ^ (8 * n) :=
      Nat.mul_le_mul_right _ (by omega)
    rw [show 8 * (n + 1) = 8 * n + 8 by ring, pow_add]
    omega

/-- The value of `n + 1` bytes from the value of the first `n` (R58). -/
theorem Memory.readBytes_succ (m : Memory) (i n : Nat) :
    m.readBytes i (n + 1) = m.readBytes i n + (m.readByte (i + n)).toNat * 2 ^ (8 * n) := by
  simp [Memory.readBytes, List.range_succ]

/-- The value depends on the bytes of the range only. -/
theorem Memory.readBytes_congr {m m' : Memory} {i i' n : Nat}
    (h : ∀ k < n, m.readByte (i + k) = m'.readByte (i' + k)) :
    m.readBytes i n = m'.readBytes i' n := by
  unfold Memory.readBytes
  congr 1
  exact List.map_congr_left fun k hk => by rw [h k (List.mem_range.mp hk)]

/-! ### The canonical form -/

theorem Memory.eraseByte_wf {capacity : Nat} {m : Memory} (i : Nat) (h : m.wf capacity) :
    (m.eraseByte i).wf capacity :=
  ⟨h.1.filter _, fun c hc => h.2 c (List.mem_of_mem_filter hc)⟩

theorem Memory.mem_insertByte {m : Memory} {i : Nat} {b : Byte} {c : Host.Cell}
    (h : c ∈ m.insertByte i b) : c = (i, b) ∨ c ∈ m := by
  induction m with
  | nil => simpa [Memory.insertByte] using h
  | cons d rest ih =>
    simp only [Memory.insertByte] at h
    split at h
    · simpa using h
    · rcases List.mem_cons.mp h with h | h
      · exact .inr (by simp [h])
      · rcases ih h with h | h
        · exact .inl h
        · exact .inr (by simp [h])

theorem Memory.insertByte_wf {capacity : Nat} {m : Memory} {i : Nat} {b : Byte}
    (hi : i < capacity) (hb : b ≠ Memory.unlisted) (hne : ∀ c ∈ m, c.1 ≠ i)
    (h : m.wf capacity) : (m.insertByte i b).wf capacity := by
  refine ⟨?_, fun c hc => ?_⟩
  · obtain ⟨h, -⟩ := h
    induction m with
    | nil => simp [Memory.insertByte]
    | cons d rest ih =>
      obtain ⟨k, d⟩ := d
      have hk : k ≠ i := hne (k, d) (by simp)
      rw [List.pairwise_cons] at h
      simp only [Memory.insertByte]
      split
      · next hlt =>
        rw [List.pairwise_cons, List.pairwise_cons]
        refine ⟨fun c hc => ?_, h⟩
        rcases List.mem_cons.mp hc with rfl | hc
        · exact hlt
        · exact hlt.trans (h.1 c hc)
      · next hge =>
        rw [List.pairwise_cons]
        refine ⟨fun c hc => ?_, ih (fun c hc => hne c (by simp [hc])) h.2⟩
        rcases Memory.mem_insertByte hc with rfl | hc
        · simp; omega
        · exact h.1 c hc
  · rcases Memory.mem_insertByte hc with rfl | hc
    · exact ⟨hi, hb⟩
    · exact h.2 c hc

theorem Memory.writeByte_wf {capacity : Nat} {m : Memory} {i : Nat} (b : Byte)
    (hi : i < capacity) (h : m.wf capacity) : (m.writeByte i b).wf capacity := by
  unfold Memory.writeByte
  split
  · exact Memory.eraseByte_wf i h
  · next hb => exact Memory.insertByte_wf hi hb Memory.ne_of_mem_eraseByte (Memory.eraseByte_wf i h)

theorem Memory.setBytes_wf {capacity : Nat} {m : Memory} {i : Nat} (bs : List Byte)
    (hi : i + bs.length ≤ capacity) (h : m.wf capacity) : (m.setBytes i bs).wf capacity := by
  induction bs generalizing m i with
  | nil => exact h
  | cons b bs ih =>
    rw [List.length_cons] at hi
    exact ih (by omega) (Memory.writeByte_wf b (by omega) h)

/-! ### The component's operations -/

theorem Memory.inRange_iff {capacity : Nat} {index : Int} {n : Nat} :
    Memory.inRange capacity index n = true ↔ 0 ≤ index ∧ index + n ≤ capacity := by
  simp [Memory.inRange]

/-- All that `read` can answer. -/
theorem Memory.read_eq_some {capacity : Nat} {m : Memory} {index : Int} {n v : Nat} :
    Memory.read capacity m index n = some v ↔
      Memory.inRange capacity index n = true ∧ v = m.readBytes index.toNat n := by
  unfold Memory.read
  cases Memory.inRange capacity index n <;> simp [eq_comm]

/-- All that `write` can answer. -/
theorem Memory.write_eq_some {capacity : Nat} {m m' : Memory} {index : Int} {n : Nat} {v : Word} :
    Memory.write capacity m index n v = some m' ↔
      Memory.inRange capacity index n = true ∧ m' = m.setBytes index.toNat (leBytes n v) := by
  unfold Memory.write
  cases Memory.inRange capacity index n <;> simp [eq_comm]

/-- All that `fill_zero` can answer. -/
theorem Memory.fillZero_eq_some {capacity : Nat} {m m' : Memory} {index : Int} {len : Nat} :
    Memory.fillZero capacity m index len = some m' ↔
      Memory.inRange capacity index len = true ∧
        m' = m.setBytes index.toNat (List.replicate len 0) := by
  unfold Memory.fillZero
  cases Memory.inRange capacity index len <;> simp [eq_comm]

theorem Memory.write_wf {capacity : Nat} {m m' : Memory} {index : Int} {n : Nat} {v : Word}
    (h : m.wf capacity) (hw : Memory.write capacity m index n v = some m') : m'.wf capacity := by
  obtain ⟨hr, rfl⟩ := Memory.write_eq_some.mp hw
  have := Memory.inRange_iff.mp hr
  exact Memory.setBytes_wf _ (by rw [leBytes_length]; omega) h

theorem Memory.fillZero_wf {capacity : Nat} {m m' : Memory} {index : Int} {len : Nat}
    (h : m.wf capacity) (hw : Memory.fillZero capacity m index len = some m') :
    m'.wf capacity := by
  obtain ⟨hr, rfl⟩ := Memory.fillZero_eq_some.mp hw
  have := Memory.inRange_iff.mp hr
  exact Memory.setBytes_wf _ (by rw [List.length_replicate]; omega) h

/-- Memory after construction has the canonical form. -/
theorem Memory.nil_wf (capacity : Nat) : Memory.wf capacity [] := by simp [Memory.wf]

end Sys2Proof.Machine
end

