-- ==== Sys2Proof/Laws/State.lean ====
section
/-!
SUPPORT. The small lemmas of the state record: one per field and update, so that no later proof
unfolds a record update.
-/

namespace Sys2Proof.Machine

variable (s : State) (t v : Word) (i : RegIdx) (m : Memory)

@[simp] theorem State.setPc_pc : (s.setPc t).pc = t := rfl
@[simp] theorem State.setPc_x : (s.setPc t).x = s.x := rfl
@[simp] theorem State.setPc_mem : (s.setPc t).mem = s.mem := rfl
@[simp] theorem State.setPc_config : (s.setPc t).config = s.config := rfl

@[simp] theorem State.writeReg_pc : (s.writeReg i v).pc = s.pc := rfl
@[simp] theorem State.writeReg_x : (s.writeReg i v).x = s.x.set i v := rfl
@[simp] theorem State.writeReg_mem : (s.writeReg i v).mem = s.mem := rfl
@[simp] theorem State.writeReg_config : (s.writeReg i v).config = s.config := rfl

@[simp] theorem State.advance_pc : s.advance.pc = s.pc + 4 := rfl
@[simp] theorem State.advance_x : s.advance.x = s.x := rfl
@[simp] theorem State.advance_mem : s.advance.mem = s.mem := rfl
@[simp] theorem State.advance_config : s.advance.config = s.config := rfl

/-! The index of a guest address depends on the configuration only. -/

@[simp] theorem State.index_setPc (a : Word) : (s.setPc t).index a = s.index a := rfl
@[simp] theorem State.index_writeReg (a : Word) : (s.writeReg i v).index a = s.index a := rfl
@[simp] theorem State.index_advance (a : Word) : s.advance.index a = s.index a := rfl
@[simp] theorem State.index_setMem (a : Word) : State.index { s with mem := m } a = s.index a := rfl

@[simp] theorem State.init_pc (c : Config) : (State.init c).pc = c.baseOffset := rfl
@[simp] theorem State.init_mem (c : Config) : (State.init c).mem = [] := rfl
@[simp] theorem State.init_config (c : Config) : (State.init c).config = c := rfl

end Sys2Proof.Machine
end

