-- ==== Sys2Proof/Laws/RegFile.lean ====
section
/-!
SUPPORT. What a register read sees after a register write (spec/10_state.md R21, R22).
-/

namespace Sys2Proof.Machine

/-- A non-zero register index addresses one of the 31 entries. -/
theorem regIdx_pos {i : RegIdx} (h : i ≠ 0) : 1 ≤ i.toNat := by
  have : i.toNat ≠ 0 := fun e => h (BitVec.eq_of_toNat_eq e)
  omega

@[simp] theorem Regs.get_zero (x : Regs) : x.get 0#5 = 0 := by simp [Regs.get]

@[simp] theorem Regs.set_zero (x : Regs) (v : Word) : x.set 0#5 v = x := by simp [Regs.set]

/-- Everything a read can see after a write: the written register reads the value unless it is
`x0`; every other register reads as before. -/
theorem Regs.get_set (x : Regs) (i j : RegIdx) (v : Word) :
    (x.set i v).get j = if j = i ∧ j ≠ 0 then v else x.get j := by
  by_cases hj : j = 0#5
  · subst hj; simp
  by_cases hi : i = 0#5
  · subst hi; simp [hj]
  have hi1 := regIdx_pos hi
  have hj1 := regIdx_pos hj
  by_cases h : j = i
  · subst h
    simp [Regs.get, Regs.set, hj]
  · have hne : i.toNat - 1 ≠ j.toNat - 1 := fun e =>
      h (BitVec.eq_of_toNat_eq (by omega))
    simp [Regs.get, Regs.set, hi, hj, h, hne]

@[simp] theorem State.readReg_zero (s : State) : s.readReg 0#5 = 0 := Regs.get_zero s.x

/-- `Regs.get_set` for the state. -/
theorem State.readReg_writeReg (s : State) (i j : RegIdx) (v : Word) :
    (s.writeReg i v).readReg j = if j = i ∧ j ≠ 0 then v else s.readReg j :=
  Regs.get_set s.x i j v

@[simp] theorem State.readReg_setPc (s : State) (t : Word) (j : RegIdx) :
    (s.setPc t).readReg j = s.readReg j := rfl

@[simp] theorem State.readReg_advance (s : State) (j : RegIdx) :
    s.advance.readReg j = s.readReg j := rfl

/-- Every register is 0 after construction. -/
theorem State.readReg_init (c : Config) (j : RegIdx) : (State.init c).readReg j = 0 := by
  simp [State.readReg, State.init, Regs.get]

end Sys2Proof.Machine
end

