-- ==== Sys2Proof/Laws/Ops.lean ====
section
/-!
SUPPORT. For each shared operation, once, all that it can answer.
-/

namespace Sys2Proof.Machine

/-- `inBounds` is the condition of spec/20_memory.md R53. -/
theorem State.inBounds_iff {s : State} {a : Word} {n : Nat} :
    s.inBounds a n = true ↔ 0 ≤ s.index a ∧ s.index a + n ≤ s.config.memCapacity :=
  Memory.inRange_iff

/-- All that `MemRead` can answer. -/
theorem State.memRead_cases (s : State) (a : Word) (n : Nat) :
    (s.inBounds a n = true ∧ s.memRead a n = .ok (s.mem.readBytes (s.index a).toNat n)) ∨
      (s.inBounds a n = false ∧ s.memRead a n = .error (.outOfBounds a n)) := by
  unfold State.memRead State.inBounds Memory.read
  cases Memory.inRange s.config.memCapacity (s.index a) n <;> simp

/-- All that `MemWrite` can answer. -/
theorem State.memWrite_cases (s : State) (a : Word) (n : Nat) (v : Word) :
    (s.inBounds a n = true ∧
        s.memWrite a n v = .ok { s with mem := s.mem.setBytes (s.index a).toNat (leBytes n v) }) ∨
      (s.inBounds a n = false ∧ s.memWrite a n v = .error (.outOfBounds a n)) := by
  unfold State.memWrite State.inBounds Memory.write
  cases Memory.inRange s.config.memCapacity (s.index a) n <;> simp

theorem State.memRead_ok {s : State} {a : Word} {n : Nat} (h : s.inBounds a n = true) :
    s.memRead a n = .ok (s.mem.readBytes (s.index a).toNat n) := by
  rcases s.memRead_cases a n with h' | h' <;> simp_all

theorem State.memRead_error {s : State} {a : Word} {n : Nat} (h : s.inBounds a n = false) :
    s.memRead a n = .error (.outOfBounds a n) := by
  rcases s.memRead_cases a n with h' | h' <;> simp_all

theorem State.memWrite_ok {s : State} {a : Word} {n : Nat} {v : Word}
    (h : s.inBounds a n = true) :
    s.memWrite a n v = .ok { s with mem := s.mem.setBytes (s.index a).toNat (leBytes n v) } := by
  rcases s.memWrite_cases a n v with h' | h' <;> simp_all

theorem State.memWrite_error {s : State} {a : Word} {n : Nat} {v : Word}
    (h : s.inBounds a n = false) : s.memWrite a n v = .error (.outOfBounds a n) := by
  rcases s.memWrite_cases a n v with h' | h' <;> simp_all

/-- All that a load can answer: the widened value in `rd` and the default advance, or the bounds
error of its one access. -/
theorem loadTo_cases (rd : RegIdx) (ea : Word) (n : Nat) (extend : Nat → Word) (s : State) :
    (s.inBounds ea n = true ∧ loadTo rd ea n extend s =
        .next (s.writeReg rd (extend (s.mem.readBytes (s.index ea).toNat n))).advance) ∨
      (s.inBounds ea n = false ∧ loadTo rd ea n extend s = .fault (.outOfBounds ea n)) := by
  rcases s.memRead_cases ea n with ⟨h, h'⟩ | ⟨h, h'⟩ <;>
    simp [loadTo, h, h', retireReg, raise]

/-- All that a store can answer: its bytes written and the default advance, or the bounds error of
its one access. -/
theorem storeAt_cases (ea : Word) (n : Nat) (v : Word) (s : State) :
    (s.inBounds ea n = true ∧ storeAt ea n v s =
        .next (State.advance { s with mem := s.mem.setBytes (s.index ea).toNat (leBytes n v) })) ∨
      (s.inBounds ea n = false ∧ storeAt ea n v s = .fault (.outOfBounds ea n)) := by
  rcases s.memWrite_cases ea n v with ⟨h, h'⟩ | ⟨h, h'⟩ <;>
    simp [storeAt, h, h', retire, raise]

/-- All that a branch can answer. -/
theorem branchTo_cases (taken : Bool) (target : Word) (s : State) :
    branchTo taken target s = .next (s.setPc (if taken = true then target else s.pc + 4)) := by
  cases taken <;> rfl

/-- All that fetch can answer. -/
theorem State.fetch_cases (s : State) :
    (s.inBounds s.pc 4 = true ∧
        s.fetch = .ok (BitVec.ofNat 32 (s.mem.readBytes (s.index s.pc).toNat 4))) ∨
      (s.inBounds s.pc 4 = false ∧ s.fetch = .error (.outOfBounds s.pc 4)) := by
  rcases s.memRead_cases s.pc 4 with ⟨h, h'⟩ | ⟨h, h'⟩ <;> simp [State.fetch, h, h']

end Sys2Proof.Machine
end

