-- ==== Sys2Proof/Laws/Loader.lean ====
section
/-!
SUPPORT. All that placing one segment of an image can answer, that it keeps the canonical form of
Memory, and all that `load_image` and a step of an instance can answer (spec/70_reset_and_hazards.md
R366, R374).
-/

namespace Sys2Proof.Machine

/-- All that `placeSegment` can answer when the file holds no more bytes than the segment. -/
theorem placeSegment_eq_some {file : List Byte} {g : Segment} {s t : State}
    (hsize : g.filesz ≤ g.memsz) :
    placeSegment file g s = some t ↔
      Memory.inRange s.config.memCapacity ((g.vaddr : Int) - s.config.baseOffset.toNat) g.memsz
        = true ∧
      t = { s with
        mem := (s.mem.setBytes ((g.vaddr : Int) - s.config.baseOffset.toNat).toNat
            (fileSlice file g.offset g.filesz)).setBytes
          ((g.vaddr : Int) - s.config.baseOffset.toNat + g.filesz).toNat
          (List.replicate (g.memsz - g.filesz) 0) } := by
  unfold placeSegment
  by_cases h : Memory.inRange s.config.memCapacity
      ((g.vaddr : Int) - s.config.baseOffset.toNat) g.memsz = true
  · have hr := Memory.inRange_iff.mp h
    have h' : Memory.inRange s.config.memCapacity
        ((g.vaddr : Int) - s.config.baseOffset.toNat + g.filesz) (g.memsz - g.filesz) = true :=
      Memory.inRange_iff.mpr ⟨by omega, by omega⟩
    simp only [h, if_true, Memory.fillZero, h', true_and, Option.some.injEq]
    exact eq_comm
  · simp [h]

theorem fileSlice_length_le (file : List Byte) (off n : Nat) : (fileSlice file off n).length ≤ n :=
  (List.length_take_le _ _)

/-- Placing a segment keeps the canonical form. -/
theorem placeSegment_wf {file : List Byte} {g : Segment} {s t : State}
    (hsize : g.filesz ≤ g.memsz) (h : placeSegment file g s = some t)
    (hw : s.mem.wf s.config.memCapacity) : t.mem.wf s.config.memCapacity := by
  obtain ⟨hr, rfl⟩ := (placeSegment_eq_some hsize).mp h
  have hr := Memory.inRange_iff.mp hr
  have hl := fileSlice_length_le file g.offset g.filesz
  refine Memory.setBytes_wf _ ?_ (Memory.setBytes_wf _ ?_ hw)
  · rw [List.length_replicate]; omega
  · omega

theorem fileHolds_iff {file : List Byte} {off n : Nat} :
    fileHolds file off n = true ↔ n = 0 ∨ off + n ≤ file.length := by
  simp [fileHolds]

/-- `load_image` goes on only on a fresh instance, which it leaves used. -/
theorem loadImage_eq_next {file : List Byte} {e e' : Emulator} :
    loadImage file e = .next e' ↔
      e.fresh = true ∧ ∃ t, placeImage file e.state = .next t ∧ e' = ⟨t, false⟩ := by
  unfold loadImage
  cases e.fresh with
  | false => simp
  | true => cases placeImage file e.state <;> simp [eq_comm]

/-- `load_image` is refused on any other. -/
theorem loadImage_not_fresh {file : List Byte} {e : Emulator} (h : e.fresh = false) :
    loadImage file e = .refused .notFresh := by
  simp [loadImage, h]

theorem State.afterStep_of_next {s t : State} (h : step s = .next t) : s.afterStep = t := by
  simp only [State.afterStep, h]

theorem State.afterStep_of_fault {s : State} {f : Fault} (h : step s = .fault f) :
    s.afterStep = s := by
  simp only [State.afterStep, h]

end Sys2Proof.Machine
end

