-- ==== Sys2Proof/Laws/PerInstr.lean ====
section
/-!
SUPPORT. Statements for all instructions, one lemma per constructor. EncodeRow: the word that
`encode` builds has the selecting bits of the instruction's own row of spec/30_encoding.md R110,
whatever the operands.
-/

namespace Sys2Proof.Laws

/-- The word of `i` matches `i`'s row (R109, R110). -/
def EncodeRow.Statement (i : Instr) : Prop := encode i &&& i.rowBits.mask = i.rowBits.bits

namespace EncodeRow

theorem lb (rd rs1 : RegIdx) (imm : Word) : Statement (.lb rd rs1 imm) :=
  (iWord_mask ..).trans rfl
theorem lh (rd rs1 : RegIdx) (imm : Word) : Statement (.lh rd rs1 imm) :=
  (iWord_mask ..).trans rfl
theorem lw (rd rs1 : RegIdx) (imm : Word) : Statement (.lw rd rs1 imm) :=
  (iWord_mask ..).trans rfl
theorem ld (rd rs1 : RegIdx) (imm : Word) : Statement (.ld rd rs1 imm) :=
  (iWord_mask ..).trans rfl
theorem lbu (rd rs1 : RegIdx) (imm : Word) : Statement (.lbu rd rs1 imm) :=
  (iWord_mask ..).trans rfl
theorem lhu (rd rs1 : RegIdx) (imm : Word) : Statement (.lhu rd rs1 imm) :=
  (iWord_mask ..).trans rfl
theorem lwu (rd rs1 : RegIdx) (imm : Word) : Statement (.lwu rd rs1 imm) :=
  (iWord_mask ..).trans rfl
theorem add (rd rs1 rs2 : RegIdx) : Statement (.add rd rs1 rs2) :=
  (rWord_mask ..).trans rfl
theorem sub (rd rs1 rs2 : RegIdx) : Statement (.sub rd rs1 rs2) :=
  (rWord_mask ..).trans rfl
theorem sll (rd rs1 rs2 : RegIdx) : Statement (.sll rd rs1 rs2) :=
  (rWord_mask ..).trans rfl
theorem slt (rd rs1 rs2 : RegIdx) : Statement (.slt rd rs1 rs2) :=
  (rWord_mask ..).trans rfl
theorem sltu (rd rs1 rs2 : RegIdx) : Statement (.sltu rd rs1 rs2) :=
  (rWord_mask ..).trans rfl
theorem xor (rd rs1 rs2 : RegIdx) : Statement (.xor rd rs1 rs2) :=
  (rWord_mask ..).trans rfl
theorem srl (rd rs1 rs2 : RegIdx) : Statement (.srl rd rs1 rs2) :=
  (rWord_mask ..).trans rfl
theorem sra (rd rs1 rs2 : RegIdx) : Statement (.sra rd rs1 rs2) :=
  (rWord_mask ..).trans rfl
theorem or (rd rs1 rs2 : RegIdx) : Statement (.or rd rs1 rs2) :=
  (rWord_mask ..).trans rfl
theorem and (rd rs1 rs2 : RegIdx) : Statement (.and rd rs1 rs2) :=
  (rWord_mask ..).trans rfl
theorem addw (rd rs1 rs2 : RegIdx) : Statement (.addw rd rs1 rs2) :=
  (rWord_mask ..).trans rfl
theorem subw (rd rs1 rs2 : RegIdx) : Statement (.subw rd rs1 rs2) :=
  (rWord_mask ..).trans rfl
theorem sllw (rd rs1 rs2 : RegIdx) : Statement (.sllw rd rs1 rs2) :=
  (rWord_mask ..).trans rfl
theorem srlw (rd rs1 rs2 : RegIdx) : Statement (.srlw rd rs1 rs2) :=
  (rWord_mask ..).trans rfl
theorem sraw (rd rs1 rs2 : RegIdx) : Statement (.sraw rd rs1 rs2) :=
  (rWord_mask ..).trans rfl
theorem addi (rd rs1 : RegIdx) (imm : Word) : Statement (.addi rd rs1 imm) :=
  (iWord_mask ..).trans rfl
theorem slti (rd rs1 : RegIdx) (imm : Word) : Statement (.slti rd rs1 imm) :=
  (iWord_mask ..).trans rfl
theorem sltiu (rd rs1 : RegIdx) (imm : Word) : Statement (.sltiu rd rs1 imm) :=
  (iWord_mask ..).trans rfl
theorem xori (rd rs1 : RegIdx) (imm : Word) : Statement (.xori rd rs1 imm) :=
  (iWord_mask ..).trans rfl
theorem ori (rd rs1 : RegIdx) (imm : Word) : Statement (.ori rd rs1 imm) :=
  (iWord_mask ..).trans rfl
theorem andi (rd rs1 : RegIdx) (imm : Word) : Statement (.andi rd rs1 imm) :=
  (iWord_mask ..).trans rfl
theorem slli (rd rs1 : RegIdx) (shamt : BitVec 6) : Statement (.slli rd rs1 shamt) :=
  (shiftWord_mask ..).trans rfl
theorem srli (rd rs1 : RegIdx) (shamt : BitVec 6) : Statement (.srli rd rs1 shamt) :=
  (shiftWord_mask ..).trans rfl
theorem srai (rd rs1 : RegIdx) (shamt : BitVec 6) : Statement (.srai rd rs1 shamt) :=
  (shiftWord_mask ..).trans rfl
theorem addiw (rd rs1 : RegIdx) (imm : Word) : Statement (.addiw rd rs1 imm) :=
  (iWord_mask ..).trans rfl
theorem slliw (rd rs1 : RegIdx) (shamt : BitVec 5) : Statement (.slliw rd rs1 shamt) :=
  (rWord_mask ..).trans rfl
theorem srliw (rd rs1 : RegIdx) (shamt : BitVec 5) : Statement (.srliw rd rs1 shamt) :=
  (rWord_mask ..).trans rfl
theorem sraiw (rd rs1 : RegIdx) (shamt : BitVec 5) : Statement (.sraiw rd rs1 shamt) :=
  (rWord_mask ..).trans rfl
theorem sb (rs1 rs2 : RegIdx) (imm : Word) : Statement (.sb rs1 rs2 imm) :=
  (sWord_mask ..).trans rfl
theorem sh (rs1 rs2 : RegIdx) (imm : Word) : Statement (.sh rs1 rs2 imm) :=
  (sWord_mask ..).trans rfl
theorem sw (rs1 rs2 : RegIdx) (imm : Word) : Statement (.sw rs1 rs2 imm) :=
  (sWord_mask ..).trans rfl
theorem sd (rs1 rs2 : RegIdx) (imm : Word) : Statement (.sd rs1 rs2 imm) :=
  (sWord_mask ..).trans rfl
theorem beq (rs1 rs2 : RegIdx) (imm : Word) : Statement (.beq rs1 rs2 imm) :=
  (bWord_mask ..).trans rfl
theorem bne (rs1 rs2 : RegIdx) (imm : Word) : Statement (.bne rs1 rs2 imm) :=
  (bWord_mask ..).trans rfl
theorem blt (rs1 rs2 : RegIdx) (imm : Word) : Statement (.blt rs1 rs2 imm) :=
  (bWord_mask ..).trans rfl
theorem bge (rs1 rs2 : RegIdx) (imm : Word) : Statement (.bge rs1 rs2 imm) :=
  (bWord_mask ..).trans rfl
theorem bltu (rs1 rs2 : RegIdx) (imm : Word) : Statement (.bltu rs1 rs2 imm) :=
  (bWord_mask ..).trans rfl
theorem bgeu (rs1 rs2 : RegIdx) (imm : Word) : Statement (.bgeu rs1 rs2 imm) :=
  (bWord_mask ..).trans rfl
theorem jal (rd : RegIdx) (imm : Word) : Statement (.jal rd imm) :=
  (jWord_mask ..).trans rfl
theorem jalr (rd rs1 : RegIdx) (imm : Word) : Statement (.jalr rd rs1 imm) :=
  (iWord_mask ..).trans rfl
theorem lui (rd : RegIdx) (imm : Word) : Statement (.lui rd imm) :=
  (uWord_mask ..).trans rfl
theorem auipc (rd : RegIdx) (imm : Word) : Statement (.auipc rd imm) :=
  (uWord_mask ..).trans rfl
theorem fence (fm pred succ : BitVec 4) (rs1 rd : RegIdx) : Statement (.fence fm pred succ rs1 rd) :=
  (fenceWord_mask ..).trans rfl

end EncodeRow

end Sys2Proof.Laws
end

