-- ==== Sys2Proof/Laws/Step.lean ====
section
/-!
SUPPORT. All that a step and an instruction can do, once: later proofs cite these instead of
unfolding `step` or the 50 arms of `exec`.
-/

namespace Sys2Proof.Machine

theorem step_of_fetch_error {s : State} {f : Fault} (h : s.fetch = .error f) :
    step s = .fault f := by
  unfold step; rw [h]; rfl

theorem step_of_decode_error {s : State} {w : InstrWord} {e : DecodeError} (h : s.fetch = .ok w)
    (hd : decode w = .error e) : step s = .fault (faultOfDecodeError e) := by
  unfold step; rw [h]; dsimp only; rw [hd]; rfl

theorem step_of_decode_ok {s : State} {w : InstrWord} {i : Instr} (h : s.fetch = .ok w)
    (hd : decode w = .ok i) : step s = exec i s := by
  unfold step; rw [h]; dsimp only; rw [hd]

/-- All that a step can answer (spec/40_step_cycle.md R140). -/
theorem step_cases (s : State) :
    (s.inBounds s.pc 4 = false ∧ step s = .fault (.outOfBounds s.pc 4)) ∨
    (s.inBounds s.pc 4 = true ∧ ∃ w e, s.fetch = .ok w ∧ decode w = .error e ∧
      step s = .fault (faultOfDecodeError e)) ∨
    (s.inBounds s.pc 4 = true ∧ ∃ w i, s.fetch = .ok w ∧ decode w = .ok i ∧
      step s = exec i s) := by
  rcases s.fetch_cases with ⟨hb, hf⟩ | ⟨hb, hf⟩
  · generalize BitVec.ofNat 32 (s.mem.readBytes (s.index s.pc).toNat 4) = w at hf
    cases hd : decode w with
    | error e => exact .inr (.inl ⟨hb, w, e, hf, hd, step_of_decode_error hf hd⟩)
    | ok i => exact .inr (.inr ⟨hb, w, i, hf, hd, step_of_decode_ok hf hd⟩)
  · exact .inl ⟨hb, step_of_fetch_error hf⟩

/-- Every instruction is one of five shapes: a branch (or FENCE, which never branches), a register
result, a load, a store, a jump. -/
theorem exec_shape (i : Instr) (s : State) :
    (i.destination = none ∧ i.isStore = false ∧ dataAccess i s = none ∧
      ∃ taken target, exec i s = branchTo taken target s) ∨
    (∃ rd, i.destination = some rd ∧ i.isStore = false ∧ dataAccess i s = none ∧
      redirect i s = none ∧ ∃ v, exec i s = retireReg rd v s) ∨
    (∃ rd ea n, i.destination = some rd ∧ i.isStore = false ∧ dataAccess i s = some (ea, n) ∧
      redirect i s = none ∧ ∃ extend, exec i s = loadTo rd ea n extend s) ∨
    (∃ ea n, i.destination = none ∧ i.isStore = true ∧ dataAccess i s = some (ea, n) ∧
      redirect i s = none ∧ ∃ v, exec i s = storeAt ea n v s) ∨
    (∃ rd target, i.destination = some rd ∧ i.isStore = false ∧ dataAccess i s = none ∧
      redirect i s = some target ∧ exec i s = jumpTo rd target s) := by
  cases i
  case fence => exact .inl ⟨rfl, rfl, rfl, false, 0, rfl⟩
  case beq | bne | blt | bge | bltu | bgeu => exact .inl ⟨rfl, rfl, rfl, _, _, rfl⟩
  case lb | lh | lw | ld | lbu | lhu | lwu =>
    exact .inr (.inr (.inl ⟨_, _, _, rfl, rfl, rfl, rfl, _, rfl⟩))
  case sb | sh | sw | sd => exact .inr (.inr (.inr (.inl ⟨_, _, rfl, rfl, rfl, rfl, _, rfl⟩)))
  case jal | jalr => exact .inr (.inr (.inr (.inr ⟨_, _, rfl, rfl, rfl, rfl, rfl⟩)))
  all_goals exact .inr (.inl ⟨_, rfl, rfl, rfl, rfl, _, rfl⟩)

end Sys2Proof.Machine
end

