-- ==== Sys2Proof/Tests/Slice0.lean ====
section
/-!
SUPPORT. Tests of one step or one operation, and for each obligation that has hypotheses a witness
that meets them. Every expected value is from spec/95_test_vectors.md (V and S numbers below) or
worked out by hand from the rule named; none is the model's own answer.
-/

namespace Sys2Proof.Tests

open Sys2Proof.Machine

/-! ### Helpers -/

/-- Registers set in a state. -/
def setRegs (s : State) : List (RegIdx × Word) → State
  | [] => s
  | (r, v) :: rest => setRegs (s.writeReg r v) rest

/-- The default configuration at the pc of most vectors, `0x80200010`. -/
def at10 (rs : List (RegIdx × Word)) : State := setRegs (State.reset.setPc 0x80200010) rs

/-- `s` with the word `w` at the pc. -/
def withWord (w : Nat) (s : State) : State := s.withFetchWord 32 w

/-- The state after a step that runs the word `w`. -/
def after (w : Nat) (s : State) : State := (withWord w s).afterStep

/-- The error of a step, if it fails. -/
def faultOf (s : State) : Option Fault :=
  match step s with
  | .fault f => some f
  | _ => none

/-- The bytes of Memory from index `i`. -/
def bytesAt (s : State) (i n : Nat) : List Byte := (List.range n).map fun k => s.mem.readByte (i + k)

/-- V4's start: `x10` holds `0x80200100`, where eight bytes stand. -/
def loadStart : State :=
  let s := at10 [(10, 0x80200100)]
  { s with mem := s.mem.setBytes 0x100 [0x88, 0x99, 0xAA, 0xBB, 0xCC, 0xDD, 0xEE, 0xFF] }

/-- V5's and V8's start. -/
def regStart : State := at10 [(6, 0xFFFFFFFFFFFFFFF0), (7, 4)]

/-- V5's corner cases: `x6` and `x7` as given. -/
def reg67 (a b : Word) : State := at10 [(6, a), (7, b)]

/-- V7's start. -/
def storeStart : State := at10 [(10, 0x80200100), (6, 0x1122334455667788)]

/-! ### WellFormed: each check refuses an ill-formed instruction (R99 to R103) -/

theorem test_wf_refuses_immediate_above : (Instr.addi 1 2 2048).wf = false := by decide
theorem test_wf_refuses_immediate_below : (Instr.ld 1 2 (-2049)).wf = false := by decide
theorem test_wf_refuses_store_offset : (Instr.sw 1 2 (-2049)).wf = false := by decide
theorem test_wf_refuses_odd_branch : (Instr.beq 1 2 3).wf = false := by decide
theorem test_wf_refuses_far_branch : (Instr.bgeu 1 2 4096).wf = false := by decide
theorem test_wf_refuses_odd_jump : (Instr.jal 1 5).wf = false := by decide
theorem test_wf_refuses_far_jump : (Instr.jal 1 1048576).wf = false := by decide
theorem test_wf_refuses_upper_low_bits : (Instr.lui 1 0x1001).wf = false := by decide
theorem test_wf_refuses_upper_not_sign_extended : (Instr.auipc 1 0x80000000).wf = false := by
  decide
theorem test_wf_accepts_bounds : (Instr.addi 1 2 (-2048)).wf ∧ (Instr.sd 1 2 2047).wf ∧
    (Instr.bne 1 2 (-4096)).wf ∧ (Instr.blt 1 2 4094).wf ∧ (Instr.jal 1 (-1048576)).wf ∧
    (Instr.jal 1 1048574).wf ∧ (Instr.lui 1 0xFFFFFFFF80000000).wf := by decide

/-! ### Extension and decoding -/

/-- V1. -/
theorem test_sext : sext 0x7FF#12 = 0x7FF ∧ sext 0x800#12 = 0xFFFFFFFFFFFFF800 ∧
    sext 0x0FFE#13 = 0xFFE ∧ sext 0x1000#13 = 0xFFFFFFFFFFFFF000 ∧
    sext 0x80000#20 = 0xFFFFFFFFFFF80000 ∧ sext 0x100000#21 = 0xFFFFFFFFFFF00000 ∧
    sext 0x80#8 = 0xFFFFFFFFFFFFFF80 ∧ sext 0x8000#16 = 0xFFFFFFFFFFFF8000 ∧
    sext 0x80000000#32 = 0xFFFFFFFF80000000 := by decide

/-- 41_loads.md; fields imm, rs1, funct3, rd, opcode (R94); words of V4. -/
theorem test_decode_loads :
    decode 0b000000000000_01010_000_00101_0000011 = .ok (.lb 5 10 0) ∧
    decode 0b000000000000_01010_001_00101_0000011 = .ok (.lh 5 10 0) ∧
    decode 0b000000000001_01010_010_00101_0000011 = .ok (.lw 5 10 1) ∧
    decode 0b000000000000_01010_011_01010_0000011 = .ok (.ld 10 10 0) ∧
    decode 0b111111111111_01010_100_00101_0000011 = .ok (.lbu 5 10 (-1)) ∧
    decode 0b000000000000_01010_101_00101_0000011 = .ok (.lhu 5 10 0) ∧
    decode 0b000000000000_01010_110_00101_0000011 = .ok (.lwu 5 10 0) := by
  decide

/-- 42_integer_register.md section 1; fields funct7, rs2, rs1, funct3, rd, opcode (R93); words of V5. -/
theorem test_decode_register :
    decode 0b0000000_00111_00110_000_00101_0110011 = .ok (.add 5 6 7) ∧
    decode 0b0100000_00111_00110_000_00101_0110011 = .ok (.sub 5 6 7) ∧
    decode 0b0000000_00111_00110_001_00101_0110011 = .ok (.sll 5 6 7) ∧
    decode 0b0000000_00111_00110_010_00101_0110011 = .ok (.slt 5 6 7) ∧
    decode 0b0000000_00111_00110_011_00101_0110011 = .ok (.sltu 5 6 7) ∧
    decode 0b0000000_00111_00110_100_00101_0110011 = .ok (.xor 5 6 7) ∧
    decode 0b0000000_00111_00110_101_00101_0110011 = .ok (.srl 5 6 7) ∧
    decode 0b0100000_00111_00110_101_00101_0110011 = .ok (.sra 5 6 7) ∧
    decode 0b0000000_00111_00110_110_00101_0110011 = .ok (.or 5 6 7) ∧
    decode 0b0000000_00111_00110_111_00101_0110011 = .ok (.and 5 6 7) := by
  decide

/-- 42_integer_register.md section 2; words of V5. -/
theorem test_decode_register_word :
    decode 0b0000000_00111_00110_000_00101_0111011 = .ok (.addw 5 6 7) ∧
    decode 0b0100000_00111_00110_000_00101_0111011 = .ok (.subw 5 6 7) ∧
    decode 0b0000000_00111_00110_001_00101_0111011 = .ok (.sllw 5 6 7) ∧
    decode 0b0000000_00111_00110_101_00101_0111011 = .ok (.srlw 5 6 7) ∧
    decode 0b0100000_00111_00110_101_00101_0111011 = .ok (.sraw 5 6 7) := by
  decide

/-- 43_integer_immediate.md; fields as R94 and, for the 6-bit shifts, R104; words of V6. -/
theorem test_decode_immediate :
    decode 0b111111111111_00110_000_00101_0010011 = .ok (.addi 5 6 (-1)) ∧
    decode 0b111111111111_00110_010_00101_0010011 = .ok (.slti 5 6 (-1)) ∧
    decode 0b000000000001_00110_011_00101_0010011 = .ok (.sltiu 5 6 1) ∧
    decode 0b111111111111_00110_100_00101_0010011 = .ok (.xori 5 6 (-1)) ∧
    decode 0b000011110000_00110_110_00101_0010011 = .ok (.ori 5 6 0x0F0) ∧
    decode 0b000011111111_00110_111_00101_0010011 = .ok (.andi 5 6 0x0FF) ∧
    decode 0b000000_111111_00110_001_00101_0010011 = .ok (.slli 5 6 63) ∧
    decode 0b000000_000100_00110_101_00101_0010011 = .ok (.srli 5 6 4) ∧
    decode 0b010000_111111_00110_101_00101_0010011 = .ok (.srai 5 6 63) := by
  decide

/-- 43_integer_immediate.md section 2; the shifts have funct7 and a 5-bit amount (R104); words of V6. -/
theorem test_decode_immediate_word :
    decode 0b000000000001_00110_000_00101_0011011 = .ok (.addiw 5 6 1) ∧
    decode 0b0000000_11111_00110_001_00101_0011011 = .ok (.slliw 5 6 31) ∧
    decode 0b0000000_00100_00110_101_00101_0011011 = .ok (.srliw 5 6 4) ∧
    decode 0b0100000_11111_00110_101_00101_0011011 = .ok (.sraiw 5 6 31) := by
  decide

/-- 44_stores.md; fields imm[11:5], rs2, rs1, funct3, imm[4:0], opcode (R95); words of V7. -/
theorem test_decode_stores :
    decode 0b0000000_00110_01010_000_00000_0100011 = .ok (.sb 10 6 0) ∧
    decode 0b0000000_00110_01010_001_00000_0100011 = .ok (.sh 10 6 0) ∧
    decode 0b0000000_00110_01010_010_00011_0100011 = .ok (.sw 10 6 3) ∧
    decode 0b1111111_00110_01010_011_11000_0100011 = .ok (.sd 10 6 (-8)) := by
  decide

/-- 45_branches.md; fields imm[12], imm[10:5], rs2, rs1, funct3, imm[4:1], imm[11], opcode (R96); words of V8. -/
theorem test_decode_branches :
    decode 0b1_111111_00000_00000_000_1100_1_1100011 = .ok (.beq 0 0 (-8)) ∧
    decode 0b0_000000_00111_00110_001_1000_0_1100011 = .ok (.bne 6 7 16) ∧
    decode 0b0_000000_00111_00110_100_1000_0_1100011 = .ok (.blt 6 7 16) ∧
    decode 0b0_000000_00111_00110_101_1000_0_1100011 = .ok (.bge 6 7 16) ∧
    decode 0b0_000000_00111_00110_110_1000_0_1100011 = .ok (.bltu 6 7 16) ∧
    decode 0b0_000000_00111_00110_111_1000_0_1100011 = .ok (.bgeu 6 7 16) := by
  decide

/-- 46_jumps.md; JAL fields imm[20], imm[10:1], imm[11], imm[19:12], rd, opcode (R98); words of V9. -/
theorem test_decode_jumps :
    decode 0b0_0000001000_0_00000000_00001_1101111 = .ok (.jal 1 16) ∧
    decode 0b1_1111111100_1_11111111_00000_1101111 = .ok (.jal 0 (-8)) ∧
    decode 0b111111111101_00101_000_00001_1100111 = .ok (.jalr 1 5 (-3)) := by
  decide

/-- 47_upper_immediate.md; fields imm[31:12], rd, opcode (R97); words of V10. -/
theorem test_decode_upper :
    decode 0b00010010001101000101_00101_0110111 = .ok (.lui 5 0x12345000) ∧
    decode 0b10000000000000000000_00101_0010111 = .ok (.auipc 5 0xFFFFFFFF80000000) := by
  decide

/-- 48_fence_system.md R300; fields fm, pred, succ, rs1, funct3, rd, opcode; words of V11. -/
theorem test_decode_fence :
    decode 0b0000_1111_1111_00000_000_00000_0001111 = .ok (.fence 0 15 15 0 0) ∧
    decode 0b1000_0011_0011_00000_000_00000_0001111 = .ok (.fence 8 3 3 0 0) ∧
    decode 0b0000_0001_0000_00000_000_00000_0001111 = .ok (.fence 0 1 0 0 0) := by
  decide

/-- V2: the immediates at their bounds, and single bits of the scrambled ones. -/
theorem test_decode_immediates :
    decode 0x7FF10093 = .ok (.addi 1 2 2047) ∧ decode 0x80010093 = .ok (.addi 1 2 (-2048)) ∧
    decode 0x7E11AFA3 = .ok (.sw 3 1 2047) ∧ decode 0x81FF8023 = .ok (.sb 31 31 (-2048)) ∧
    decode 0x7E001FE3 = .ok (.bne 0 0 4094) ∧ decode 0x8062E063 = .ok (.bltu 5 6 (-4096)) ∧
    decode 0x00B550E3 = .ok (.bge 10 11 2048) ∧ decode 0x7FFFF06F = .ok (.jal 0 1048574) ∧
    decode 0x800000EF = .ok (.jal 1 (-1048576)) ∧ decode 0x001000EF = .ok (.jal 1 2048) ∧
    decode 0xFFFFF0EF = .ok (.jal 1 (-2)) ∧ decode 0x7FFFF2B7 = .ok (.lui 5 0x7FFFF000) ∧
    decode 0xFFFFF097 = .ok (.auipc 1 (-4096)) := by decide

/-- V2: the words whose opcode is not supported. -/
theorem test_decode_unsupported_opcode :
    decode 0x00000000 = .error (.unsupportedOpcode 0x00) ∧
    decode 0xFFFFFFFF = .error (.unsupportedOpcode 0x7F) ∧
    decode 0x00000073 = .error (.unsupportedOpcode 0x73) ∧
    decode 0x30200073 = .error (.unsupportedOpcode 0x73) ∧
    decode 0x00004501 = .error (.unsupportedOpcode 0x01) ∧
    decode 0x02A5A52F = .error (.unsupportedOpcode 0x2F) := by decide

/-- V2: the words whose function codes are no instruction. -/
theorem test_decode_unsupported_funct :
    decode 0x00057283 = .error (.unsupportedFunct 0x03 7 0x00) ∧
    decode 0x027302B3 = .error (.unsupportedFunct 0x33 0 0x01) ∧
    decode 0x0203129B = .error (.unsupportedFunct 0x1B 1 0x01) ∧
    decode 0x04131293 = .error (.unsupportedFunct 0x13 1 0x02) ∧
    decode 0x00654023 = .error (.unsupportedFunct 0x23 4 0x00) ∧
    decode 0x00732863 = .error (.unsupportedFunct 0x63 2 0x00) ∧
    decode 0x000290E7 = .error (.unsupportedFunct 0x67 1 0x00) ∧
    decode 0x0000100F = .error (.unsupportedFunct 0x0F 1 0x00) := by decide

/-- R110's words of fields, built by the encoder: V2. -/
theorem test_encode : encode (.bge 10 11 2048) = 0x00B550E3 ∧ encode (.jal 1 2048) = 0x001000EF ∧
    encode (.sd 2 5 (-8)) = 0xFE513C23 ∧ encode (.sub 3 1 2) = 0x402081B3 := by decide

/-- The table's numbering (opcode_table.json): LW's word, and a word that is no instruction. -/
theorem test_decodeTableWord : decodeTableWord 32 0x00052503 = some (.lw 10 10 0) ∧
    decodeTableWord 32 0x00000073 = none := by decide

/-- A word placed at reset is what the first step runs: `addi x5, x0, -1` (S3). -/
theorem test_withFetchWord : (after 0xFFF00293 State.reset).readReg 5 = 0xFFFFFFFFFFFFFFFF ∧
    (after 0xFFF00293 State.reset).pc = 0x80200004 := by decide

/-! ### Loads (V4) -/

theorem test_lb : (after 0x00050283 loadStart).readReg 5 = 0xFFFFFFFFFFFFFF88 ∧
    (after 0x00050283 loadStart).pc = 0x80200014 := by decide
theorem test_lh : (after 0x00051283 loadStart).readReg 5 = 0xFFFFFFFFFFFF9988 ∧
    (after 0x00051283 loadStart).pc = 0x80200014 := by decide
theorem test_lw : (after 0x00052283 loadStart).readReg 5 = 0xFFFFFFFFBBAA9988 ∧
    (after 0x00052283 loadStart).pc = 0x80200014 := by decide
theorem test_ld : (after 0x00053283 loadStart).readReg 5 = 0xFFEEDDCCBBAA9988 ∧
    (after 0x00053283 loadStart).pc = 0x80200014 := by decide
theorem test_lbu : (after 0x00054283 loadStart).readReg 5 = 0x88 ∧
    (after 0x00054283 loadStart).pc = 0x80200014 := by decide
theorem test_lhu : (after 0x00055283 loadStart).readReg 5 = 0x9988 ∧
    (after 0x00055283 loadStart).pc = 0x80200014 := by decide
theorem test_lwu : (after 0x00056283 loadStart).readReg 5 = 0xBBAA9988 ∧
    (after 0x00056283 loadStart).pc = 0x80200014 := by decide
theorem test_lw_misaligned : (after 0x00152283 loadStart).readReg 5 = 0xFFFFFFFFCCBBAA99 := by
  decide
theorem test_ld_onto_base : (after 0x00053503 loadStart).readReg 10 = 0xFFEEDDCCBBAA9988 := by
  decide
theorem test_ld_x0_out_of_bounds :
    faultOf (withWord 0x00003003 loadStart) = some (.outOfBounds 0 8) := by decide
theorem test_lbu_negative_offset : (after 0xFFF54283 loadStart).readReg 5 = 0 := by decide

/-! ### Register-register (V5: the first vector, then a corner case) -/

theorem test_add : (after 0x007302B3 regStart).readReg 5 = 0xFFFFFFFFFFFFFFF4 := by decide
theorem test_add_corner : (after 0x007302B3 (reg67 0x7FFFFFFFFFFFFFFF 0x1)).readReg 5 = 0x8000000000000000 := by
  decide
theorem test_sub : (after 0x407302B3 regStart).readReg 5 = 0xFFFFFFFFFFFFFFEC := by decide
theorem test_sub_corner : (after 0x407302B3 (reg67 0x0 0x8000000000000000)).readReg 5 = 0x8000000000000000 := by
  decide
theorem test_sll : (after 0x007312B3 regStart).readReg 5 = 0xFFFFFFFFFFFFFF00 := by decide
theorem test_sll_corner : (after 0x007312B3 (reg67 0x1 0x40)).readReg 5 = 0x1 := by
  decide
theorem test_slt : (after 0x007322B3 regStart).readReg 5 = 0x1 := by decide
theorem test_slt_corner : (after 0x007322B3 (reg67 0x8000000000000000 0x7FFFFFFFFFFFFFFF)).readReg 5 = 0x1 := by
  decide
theorem test_sltu : (after 0x007332B3 regStart).readReg 5 = 0x0 := by decide
theorem test_sltu_corner : (after 0x007332B3 (reg67 0x8000000000000000 0x7FFFFFFFFFFFFFFF)).readReg 5 = 0x0 := by
  decide
theorem test_xor : (after 0x007342B3 regStart).readReg 5 = 0xFFFFFFFFFFFFFFF4 := by decide
theorem test_srl : (after 0x007352B3 regStart).readReg 5 = 0xFFFFFFFFFFFFFFF := by decide
theorem test_srl_corner : (after 0x007352B3 (reg67 0x8000000000000000 0x3F)).readReg 5 = 0x1 := by
  decide
theorem test_sra : (after 0x407352B3 regStart).readReg 5 = 0xFFFFFFFFFFFFFFFF := by decide
theorem test_sra_corner : (after 0x407352B3 (reg67 0x8000000000000000 0x3F)).readReg 5 = 0xFFFFFFFFFFFFFFFF := by
  decide
theorem test_or : (after 0x007362B3 regStart).readReg 5 = 0xFFFFFFFFFFFFFFF4 := by decide
theorem test_and : (after 0x007372B3 regStart).readReg 5 = 0x0 := by decide
theorem test_addw : (after 0x007302BB regStart).readReg 5 = 0xFFFFFFFFFFFFFFF4 := by decide
theorem test_addw_corner : (after 0x007302BB (reg67 0x7FFFFFFF 0x1)).readReg 5 = 0xFFFFFFFF80000000 := by
  decide
theorem test_subw : (after 0x407302BB regStart).readReg 5 = 0xFFFFFFFFFFFFFFEC := by decide
theorem test_subw_corner : (after 0x407302BB (reg67 0x80000000 0x1)).readReg 5 = 0x7FFFFFFF := by
  decide
theorem test_sllw : (after 0x007312BB regStart).readReg 5 = 0xFFFFFFFFFFFFFF00 := by decide
theorem test_sllw_corner : (after 0x007312BB (reg67 0xFFFFFFFF 0x20)).readReg 5 = 0xFFFFFFFFFFFFFFFF := by
  decide
theorem test_srlw : (after 0x007352BB regStart).readReg 5 = 0xFFFFFFF := by decide
theorem test_srlw_corner : (after 0x007352BB (reg67 0xFFFFFFFF80000000 0x1F)).readReg 5 = 0x1 := by
  decide
theorem test_sraw : (after 0x407352BB regStart).readReg 5 = 0xFFFFFFFFFFFFFFFF := by decide
theorem test_sraw_corner : (after 0x407352BB (reg67 0x80000000 0x1F)).readReg 5 = 0xFFFFFFFFFFFFFFFF := by
  decide
/-- V5: `add x5, x5, x5` reads both operands first, `add x0, x6, x7` writes nothing. -/
theorem test_add_same_and_zero :
    (after 0x005282B3 (at10 [(5, 0x4000000000000001)])).readReg 5 = 0x8000000000000002 ∧
    (after 0x00730033 regStart).x = regStart.x := by decide

/-! ### Register-immediate (V6) -/

theorem test_addi : (after 0xFFF30293 regStart).readReg 5 = 0xFFFFFFFFFFFFFFEF := by decide
theorem test_slti : (after 0xFFF32293 regStart).readReg 5 = 0x1 := by decide
theorem test_sltiu : (after 0xFFF33293 regStart).readReg 5 = 0x1 := by decide
theorem test_sltiu_corner : (after 0x00133293 (reg67 0xFFFFFFFFFFFFFFF0 0)).readReg 5 = 0x0 := by
  decide
theorem test_xori : (after 0xFFF34293 regStart).readReg 5 = 0xF := by decide
theorem test_ori : (after 0x0F036293 regStart).readReg 5 = 0xFFFFFFFFFFFFFFF0 := by decide
theorem test_andi : (after 0x0FF37293 regStart).readReg 5 = 0xF0 := by decide
theorem test_slli : (after 0x00431293 regStart).readReg 5 = 0xFFFFFFFFFFFFFF00 := by decide
theorem test_slli_corner : (after 0x03F31293 (reg67 0x1 0)).readReg 5 = 0x8000000000000000 := by
  decide
theorem test_srli : (after 0x00435293 regStart).readReg 5 = 0xFFFFFFFFFFFFFFF := by decide
theorem test_srli_corner : (after 0x03F35293 (reg67 0xFFFFFFFFFFFFFFF0 0)).readReg 5 = 0x1 := by
  decide
theorem test_srai : (after 0x40435293 regStart).readReg 5 = 0xFFFFFFFFFFFFFFFF := by decide
theorem test_srai_corner : (after 0x43F35293 (reg67 0xFFFFFFFFFFFFFFF0 0)).readReg 5 = 0xFFFFFFFFFFFFFFFF := by
  decide
theorem test_addiw : (after 0x0013029B regStart).readReg 5 = 0xFFFFFFFFFFFFFFF1 := by decide
theorem test_addiw_corner : (after 0x0003029B (reg67 0x80000000 0)).readReg 5 = 0xFFFFFFFF80000000 := by
  decide
theorem test_slliw : (after 0x0043129B regStart).readReg 5 = 0xFFFFFFFFFFFFFF00 := by decide
theorem test_slliw_corner : (after 0x01F3129B (reg67 0x1 0)).readReg 5 = 0xFFFFFFFF80000000 := by
  decide
theorem test_srliw : (after 0x0043529B regStart).readReg 5 = 0xFFFFFFF := by decide
theorem test_srliw_corner : (after 0x01F3529B (reg67 0xFFFFFFFFFFFFFFF0 0)).readReg 5 = 0x1 := by
  decide
theorem test_sraiw : (after 0x4043529B regStart).readReg 5 = 0xFFFFFFFFFFFFFFFF := by decide
theorem test_sraiw_corner : (after 0x41F3529B (reg67 0xFFFFFFFFFFFFFFF0 0)).readReg 5 = 0xFFFFFFFFFFFFFFFF := by
  decide

/-! ### Stores (V7) -/

theorem test_sb : bytesAt (after 0x00650023 storeStart) 0x100 2 =
    [0x88, 0x00] := by decide
theorem test_sh : bytesAt (after 0x00651023 storeStart) 0x100 3 =
    [0x88, 0x77, 0x00] := by decide
theorem test_sw : bytesAt (after 0x00652023 storeStart) 0x100 5 =
    [0x88, 0x77, 0x66, 0x55, 0x00] := by decide
theorem test_sd : bytesAt (after 0x00653023 storeStart) 0x100 8 =
    [0x88, 0x77, 0x66, 0x55, 0x44, 0x33, 0x22, 0x11] := by decide
theorem test_sw_misaligned : bytesAt (after 0x006521A3 storeStart) 0x102 6 =
    [0x00, 0x88, 0x77, 0x66, 0x55, 0x00] := by decide
theorem test_sd_negative_offset : bytesAt (after 0xFE653C23 storeStart) 0xF8 8 =
    [0x88, 0x77, 0x66, 0x55, 0x44, 0x33, 0x22, 0x11] := by decide
/-- V7: eight zero bytes over eight others, and a store below Memory. -/
theorem test_sd_zero_and_out_of_bounds :
    bytesAt (after 0x00053023 loadStart) 0x100 8 = [0, 0, 0, 0, 0, 0, 0, 0] ∧
    faultOf (withWord 0x00603023 storeStart) = some (.outOfBounds 0 8) := by decide

/-! ### Branches (V8), jumps (V9), upper immediates (V10), FENCE (V11) -/

theorem test_beq : (after 0x00730863 regStart).pc = 0x80200014 ∧
    (after 0x00630863 regStart).pc = 0x80200020 := by decide
theorem test_bne : (after 0x00731863 regStart).pc = 0x80200020 := by decide
theorem test_blt : (after 0x00734863 regStart).pc = 0x80200020 ∧
    (after 0x00634863 regStart).pc = 0x80200014 := by decide
theorem test_bge : (after 0x00735863 regStart).pc = 0x80200014 ∧
    (after 0x00635863 regStart).pc = 0x80200020 := by decide
theorem test_bltu : (after 0x00736863 regStart).pc = 0x80200014 := by decide
theorem test_bgeu : (after 0x00737863 regStart).pc = 0x80200020 := by decide
theorem test_beq_backward : (after 0xFE000CE3 regStart).pc = 0x80200008 ∧
    (after 0x00000063 regStart).pc = 0x80200010 := by decide
theorem test_jal : (after 0x010000EF regStart).pc = 0x80200020 ∧
    (after 0x010000EF regStart).readReg 1 = 0x80200014 := by decide
theorem test_jal_backward_and_misaligned : (after 0xFF9FF06F regStart).pc = 0x80200008 ∧
    (after 0x002000EF regStart).pc = 0x80200012 := by decide
theorem test_jalr : (after 0x000280E7 (at10 [(5, 0x80200041)])).pc = 0x80200040 ∧
    (after 0xFFD280E7 (at10 [(5, 0x80200043)])).pc = 0x80200040 := by decide
theorem test_jalr_same_register : (after 0x000080E7 (at10 [(1, 0x80200100)])).pc = 0x80200100 ∧
    (after 0x000080E7 (at10 [(1, 0x80200100)])).readReg 1 = 0x80200014 := by decide
theorem test_lui : (after 0x123452B7 regStart).readReg 5 = 0x12345000 ∧
    (after 0x800002B7 regStart).readReg 5 = 0xFFFFFFFF80000000 := by decide
theorem test_auipc : (after 0x00001297 regStart).readReg 5 = 0x80201010 ∧
    (after 0x80000297 regStart).readReg 5 = 0x200010 := by decide
theorem test_fence : (after 0x0FF0000F regStart).pc = 0x80200014 ∧
    (after 0x0FF0000F regStart).x = regStart.x := by decide

/-! ### Bounds, byte order, errors (V3, V9, V12) -/

theorem test_memRead_in_bounds : State.reset.memRead 0x80200000 1 = .ok 0 ∧
    State.reset.memRead 0x802FFFFF 1 = .ok 0 ∧ State.reset.memRead 0x802FFFF8 8 = .ok 0 := by
  decide
theorem test_memRead_out_of_bounds :
    State.reset.memRead 0x802FFFF9 8 = .error (.outOfBounds 0x802FFFF9 8) ∧
    State.reset.memRead 0x80300000 1 = .error (.outOfBounds 0x80300000 1) ∧
    State.reset.memRead 0x801FFFFF 1 = .error (.outOfBounds 0x801FFFFF 1) ∧
    State.reset.memRead 0x801FFFFC 8 = .error (.outOfBounds 0x801FFFFC 8) ∧
    State.reset.memRead 0xFFFFFFFFFFFFFFFF 1 = .error (.outOfBounds 0xFFFFFFFFFFFFFFFF 1) := by
  decide
theorem test_memRead_little_endian : loadStart.memRead 0x80200100 2 = .ok 0x9988 ∧
    loadStart.memRead 0x80200102 4 = .ok 0xDDCCBBAA := by decide
theorem test_memWrite_straddling : State.reset.memWrite 0x802FFFFF 2 0x1234
    = .error (.outOfBounds 0x802FFFFF 2) := by decide
theorem test_fetch_word_bytes : bytesAt (withWord 0xFFF10093 regStart) 0x10 4
    = [0x93, 0x00, 0xF1, 0xFF] := by decide
theorem test_fetch_error_first : faultOf (State.reset.setPc 0x80300000)
    = some (.outOfBounds 0x80300000 4) := by decide
theorem test_decode_error_before_access : faultOf (withWord 0x00057283 (at10 []))
    = some (.unsupportedFunct 0x03 7 0x00) := by decide
theorem test_failed_load_changes_nothing :
    let s := withWord 0x00053283 (at10 [(10, 0x802FFFFC)])
    faultOf s = some (.outOfBounds 0x802FFFFC 8) ∧ State.afterSteps 2 s = s := by decide
theorem test_failed_store_writes_nothing :
    let s := withWord 0x00A53023 (at10 [(10, 0x802FFFFC)])
    faultOf s = some (.outOfBounds 0x802FFFFC 8) ∧ s.afterStep = s := by decide
theorem test_jump_out_of_memory :
    let s := after 0x00008067 (at10 [])
    s.pc = 0 ∧ faultOf s = some (.outOfBounds 0 4) := by decide
theorem test_memory_keeps_no_zero : ((Memory.writeByte [] 3 7).writeByte 3 0) = [] := by decide

/-! ### The Loader (S5) -/

/-- S5's 124-byte file. -/
def s5File : List Byte :=
  List.replicate 32 0 ++ [0x40, 0, 0, 0, 0, 0, 0, 0] ++ List.replicate 16 0 ++ [1, 0] ++
    List.replicate 6 0 ++ [1, 0, 0, 0, 0, 0, 0, 0] ++ [0x78, 0, 0, 0, 0, 0, 0, 0] ++
    [0, 0, 0x20, 0x80, 0, 0, 0, 0] ++ List.replicate 8 0 ++ [4, 0, 0, 0, 0, 0, 0, 0] ++
    [12, 0, 0, 0, 0, 0, 0, 0] ++ List.replicate 8 0 ++ [0x13, 0, 0, 0]

/-- The instance that a load gives, if it gives one. -/
def loaded (file : List Byte) (e : Emulator) : Option Emulator :=
  match loadImage file e with
  | .next e' => some e'
  | _ => none

/-- A state whose bytes are not zero where the segment's tail falls. -/
def dirty : State := { State.reset with mem := [(4, 9), (11, 8), (12, 7)] }

/-- A file of 58 zero bytes but for `e_phoff = 64`, past its end: its table is empty. -/
def emptyTable : List Byte := List.replicate 32 0 ++ [0x40] ++ List.replicate 25 0

set_option maxRecDepth 8000 in
theorem test_load_image : s5File.length = 124 ∧
    (loaded s5File ⟨dirty, true⟩).map (fun e => (e.state.mem, e.fresh))
      = some ([(0, 0x13), (12, 7)], false) := ⟨rfl, rfl⟩
theorem test_load_image_refuses_short_file : loadImage [] ⟨State.reset, true⟩
    = .fault (.malformedElf .headerTruncated) := rfl
/-- D15(e): a load after a step that failed, which changed nothing, is still refused. -/
theorem test_load_image_refuses_after_step :
    (Emulator.afterCalls ⟨State.reset, true⟩ [.step]).map (fun e => (loaded s5File e, e.state))
      = some (none, State.reset) := by decide
/-- Log entry 18: nothing to copy, so the load goes on. -/
theorem test_load_image_empty_table :
    loaded emptyTable ⟨dirty, true⟩ = some ⟨dirty, false⟩ := rfl

/-! ### Witnesses: states and operands that meet the hypotheses of each obligation

One for each clause, at a boundary of its range. -/

/-- The last address at which an access of `n` bytes is in bounds, in the default configuration. -/
def lastAddress (n : Nat) : Word := BitVec.ofNat 64 (0x80300000 - n)

theorem witness_ExtensionsReadAsStated : (1 ≤ 1 ∧ 1 ≤ 64 ∧ (1#1).getLsbD 0 = true) ∧
    (1 ≤ 64 ∧ 64 ≤ 64 ∧ (1#64).getLsbD 63 = false) := by decide

theorem witness_RowsSelectWords : decode 0x00052503 = .ok (.lw 10 10 0) ∧
    0x00052503#32 &&& (Instr.lw 0 0 0).rowBits.mask = (Instr.lw 0 0 0).rowBits.bits := by decide

theorem witness_DecodeErrorsAreStaged : opcodeOf 0 ∉ supportedOpcodes ∧
    decode 0 = .error (.unsupportedOpcode 0) ∧ opcodeOf 0x00057283 ∈ supportedOpcodes ∧
    ∀ i : Instr, 0x00057283#32 &&& i.rowBits.mask ≠ i.rowBits.bits := by
  refine ⟨by decide, by decide, by decide, fun i => ?_⟩
  cases i <;> (dsimp only [Instr.rowBits]; decide)

/-- The words that meet one clause each of the next witness, the clauses in their order. -/
def otherWords : List (InstrWord × Nat × Nat) :=
  [(0x00057283, 0x03, 7), (0x00654023, 0x23, 4), (0x00657023, 0x23, 7), (0x00732863, 0x63, 2),
    (0x00733863, 0x63, 3), (0x000290E7, 0x67, 1), (0x0002F0E7, 0x67, 7), (0x0000100F, 0x0F, 1),
    (0x0000700F, 0x0F, 7), (0x027302B3, 0x33, 0), (0x407312B3, 0x33, 1), (0x407372B3, 0x33, 7),
    (0x007322BB, 0x3B, 2), (0x027302BB, 0x3B, 0), (0x04131293, 0x13, 1), (0x04435293, 0x13, 5),
    (0x44435293, 0x13, 5), (0x0003229B, 0x1B, 2), (0x0003729B, 0x1B, 7), (0x0203129B, 0x1B, 1),
    (0x0203529B, 0x1B, 5), (0x4203529B, 0x1B, 5)]

/-- Each word is fetched, has the opcode and `funct3` its clause asks for, and is no row's word; the
`funct6` and `funct7` clauses are read off the words (R109's table). -/
theorem witness_OtherFunctionCodesAreRejected : ∀ p ∈ otherWords,
    ((at10 []).placeWord p.1).fetch = .ok p.1 ∧ (opcodeOf p.1).toNat = p.2.1 ∧
      (funct3Of p.1).toNat = p.2.2 := by decide
theorem witness_OtherFunctionCodes_high_bits :
    (funct7Of 0x027302B3).toNat = 0x01 ∧ (funct7Of 0x407312B3).toNat = 0x20 ∧
    (funct7Of 0x407372B3).toNat = 0x20 ∧ (funct7Of 0x007322BB).toNat = 0x00 ∧
    (funct7Of 0x027302BB).toNat = 0x01 ∧ (funct6Of 0x04131293).toNat = 0b000001 ∧
    (funct6Of 0x04435293).toNat = 0b000001 ∧ (funct6Of 0x44435293).toNat = 0b010001 ∧
    (funct7Of 0x0203129B).toNat = 0x01 ∧ (funct7Of 0x0203529B).toNat = 0x01 ∧
    (funct7Of 0x4203529B).toNat = 0x21 := by decide

theorem witness_MultiplyAndDivideAreRejected :
    (opcodeOf 0x027302B3 = 0x33 ∧ funct7Of 0x027302B3 = 0x01) ∧
    (opcodeOf 0x027302BB = 0x3B ∧ funct7Of 0x027302BB = 0x01) := by decide

theorem witness_DecodeOfEncode : (Instr.bge 10 11 (-4096)).wf = true := by decide

theorem witness_EncodeOfDecode : decode 0x80010093 = .ok (.addi 1 2 (-2048)) := by decide

theorem witness_RegisterReadAfterWrite : (31 : RegIdx) ≠ 0 ∧ (1 : RegIdx) ≠ 31 := by decide

/-- A load to `x0` in bounds, one out of bounds, and a jump, which makes no access. -/
theorem witness_WritesToZeroRegisterAreDropped :
    ((Instr.ld 0 10 0).destination = some 0 ∧
      dataAccess (.ld 0 10 0) loadStart = some (0x80200100, 8) ∧
      InBounds loadStart 0x80200100 8) ∧
    (dataAccess (.ld 0 0 0) loadStart = some (0, 8) ∧ ¬ InBounds loadStart 0 8) ∧
    ((Instr.jal 0 8).destination = some 0 ∧ dataAccess (.jal 0 8) loadStart = none) := by
  unfold InBounds; decide

/-- The first and the last bytes of Memory, and one byte before and after (V3). -/
theorem witness_MemReadIsLittleEndianAndChecked :
    InBounds State.reset 0x80200000 8 ∧ InBounds State.reset 0x802FFFF8 8 ∧
    ¬ InBounds State.reset 0x801FFFFF 1 ∧ ¬ InBounds State.reset 0x802FFFF9 8 := by
  unfold InBounds; decide
theorem witness_MemWriteSetsExactlyItsBytes :
    InBounds State.reset 0x802FFFFF 1 ∧ ¬ InBounds State.reset 0x802FFFFF 2 := by
  unfold InBounds; decide

/-- `sd` at the end of Memory read in its last byte, and two words side by side. -/
theorem witness_MixedWidthAccessesSeeBytes :
    (State.reset.config.Legal ∧ (∃ t, State.reset.memWrite 0x802FFFF8 8 0x11 = .ok t) ∧
      8 ≤ 8 ∧ 1 ≤ 1 ∧ 7 + 1 ≤ 8) ∧
    (InBounds State.reset 0x802FFFF8 (4 + 4) ∧
      ∃ t, State.reset.memWrite 0x802FFFF8 4 0x22 = .ok t) :=
  ⟨⟨by decide, ⟨_, rfl⟩, by decide⟩, by unfold InBounds; decide, ⟨_, rfl⟩⟩

/-- Two orders of the same two writes. -/
theorem witness_CanonicalMemoriesAreEqual :
    ((Memory.writeByte [] 5 1).writeByte 1048575 2).wf 1048576 ∧
    ((Memory.writeByte [] 1048575 2).writeByte 5 1).wf 1048576 ∧
    ∀ i, ((Memory.writeByte [] 5 1).writeByte 1048575 2).readByte i
      = ((Memory.writeByte [] 1048575 2).writeByte 5 1).readByte i :=
  ⟨by decide, by decide, fun _ => rfl⟩

/-- The smallest and the highest legal configurations, and illegal ones beside them. -/
theorem witness_ConstructionGivesResetState :
    Config.Legal ⟨0xFFFFFFFFFFFFFFFF, 1⟩ ∧ Config.Legal ⟨0, 2 ^ 64⟩ ∧
    ¬ Config.Legal ⟨0xFFFFFFFFFFFFFFFF, 2⟩ ∧ ¬ Config.Legal ⟨0x80200000, 0⟩ := by decide
theorem witness_ConstructionMeetsInvariant :
    construct Config.default = some ⟨State.reset, true⟩ := by decide

/-- A store: it changes Memory, and the step goes on. -/
theorem witness_StepKeepsInvariant : (withWord 0x00653023 storeStart).Inv ∧
    ∃ t, step (withWord 0x00653023 storeStart) = .next t := ⟨by decide, ⟨_, rfl⟩⟩
theorem witness_RunsKeepInvariant : (withWord 0x00000063 (at10 [])).Inv ∧
    ∃ t, Sys2Proof.core.run 2 (withWord 0x00000063 (at10 [])) = .next t :=
  ⟨by decide, ⟨_, rfl⟩⟩

theorem witness_StepRunsDecodedInstruction : InBounds (at10 []) (at10 []).pc 4 ∧
    decodeBytes 0x93 0x00 0xF1 0xFF = .ok (.addi 1 2 (-1)) ∧
    bytesAt (withWord 0xFFF10093 (at10 [])) 0x10 4 = [0x93, 0x00, 0xF1, 0xFF] := by
  unfold InBounds; decide

/-- V3: a fetch of the last four bytes, and one two bytes further. -/
theorem witness_FetchReadsFourBytesAtPc :
    InBounds (State.reset.setPc 0x802FFFFC) 0x802FFFFC 4 ∧
    ¬ InBounds (State.reset.setPc 0x802FFFFE) 0x802FFFFE 4 := by unfold InBounds; decide

/-- V12: a state for each of the four errors. -/
theorem witness_ErrorsComeInPriorityOrder :
    faultOf (State.reset.setPc 0x80300000) = some (.outOfBounds 0x80300000 4) ∧
    faultOf (withWord 0x00000073 (at10 [])) = some (.unsupportedOpcode 0x73) ∧
    faultOf (withWord 0x00057283 (at10 [])) = some (.unsupportedFunct 0x03 7 0x00) ∧
    faultOf (withWord 0x00053283 (at10 [])) = some (.outOfBounds 0 8) := by decide

theorem witness_HandlersFailOnlyOutOfBounds :
    dataAccess (.lw 5 10 0) loadStart = some (0x80200100, 4) ∧
    InBounds loadStart 0x80200100 4 ∧ dataAccess (.add 5 6 7) loadStart = none ∧
    dataAccess (.sw 0 6 0) loadStart = some (0, 4) ∧ ¬ InBounds loadStart 0 4 := by
  unfold InBounds; decide

theorem witness_PcIsSequencedOrRedirected :
    (redirect (.bne 6 7 16) regStart = some 0x80200020 ∧
      ∃ t, exec (.bne 6 7 16) regStart = .next t) ∧
    (redirect (.beq 6 7 16) regStart = none ∧ ∃ t, exec (.beq 6 7 16) regStart = .next t) :=
  ⟨⟨by decide, ⟨_, rfl⟩⟩, by decide, ⟨_, rfl⟩⟩
theorem witness_OnlyStoresChangeMemory : (Instr.ld 5 10 0).isStore = false ∧
    ∃ t, exec (.ld 5 10 0) loadStart = .next t := ⟨rfl, ⟨_, rfl⟩⟩
theorem witness_OnlyTheDestinationRegisterChanges : (Instr.add 5 6 7).destination ≠ some 6 ∧
    ∃ t, exec (.add 5 6 7) regStart = .next t := ⟨by decide, ⟨_, rfl⟩⟩
/-- One step from `nop` runs into a zero word, which stops the hart; the other three causes; and a
state where nothing does. -/
theorem witness_HaltIsForEver :
    let s := withWord 0x00000013 (at10 [])
    (∃ t, Sys2Proof.core.run 1 s = .next t ∧ HaltCause t (.unsupportedOpcode 0x00)) ∧
    HaltCause (State.reset.setPc 0x802FFFFD) (.outOfBounds 0x802FFFFD 4) ∧
    HaltCause (withWord 0x00057283 (at10 [])) (.unsupportedFunct 0x03 7 0x00) ∧
    HaltCause (withWord 0x00053283 (at10 [(10, 0x802FFFF9)])) (.outOfBounds 0x802FFFF9 8) ∧
    (Sys2Proof.core.run 0 s = .next s ∧ ∀ f, ¬ HaltCause s f) := by
  have hf : (withWord 0x00000013 (at10 [])).fetch = .ok 0x00000013 := by decide
  have hw : ∀ w, (withWord 0x00000013 (at10 [])).fetch = .ok w → 0x00000013 = w := fun w h => by
    rw [hf] at h; exact Except.ok.inj h
  refine ⟨⟨_, rfl, .opcode 0 (by decide) (by decide)⟩, .fetch (by unfold InBounds; decide),
    .funct 0x00057283 (by decide) (by unfold UnsupportedFunctWord; decide),
    .access 0x00053283 (.ld 5 10 0) 0x802FFFF9 8 (by decide) (by decide) (by decide)
      (by unfold InBounds; decide), rfl, fun f h => ?_⟩
  cases h with
  | fetch hb => revert hb; unfold InBounds; decide
  | opcode w h ho => cases hw w h; revert ho; decide
  | funct w h hu => cases hw w h; revert hu; unfold UnsupportedFunctWord; decide
  | access w i a n h hd ha =>
    cases hw w h
    cases (Except.ok.inj hd : Instr.addi 0 0 0 = i)
    cases ha

/-- Two states that differ in a byte that `ld x5, 0(x10)` does not read. -/
theorem witness_StepDependsOnAccessedBytesOnly :
    let s := withWord 0x00053283 loadStart
    let s' := { s with mem := s.mem.writeByte 0x108 1 }
    s ≠ s' ∧ s.config = s'.config ∧ s.x = s'.x ∧ s.pc = s'.pc ∧
    (∀ k < 4, s.mem.readByte ((s.index s.pc).toNat + k)
      = s'.mem.readByte ((s.index s.pc).toNat + k)) ∧
    (∀ w i a n, s.fetch = .ok w → decode w = .ok i → dataAccess i s = some (a, n) →
      ∀ k < n, s.mem.readByte ((s.index a).toNat + k)
        = s'.mem.readByte ((s.index a).toNat + k)) := by
  refine ⟨by decide, rfl, rfl, rfl, by decide, fun w i a n hw hi ha => ?_⟩
  have hw' : (.ok 0x00053283 : Except Fault InstrWord) = .ok w :=
    (show (withWord 0x00053283 loadStart).fetch = .ok 0x00053283 by decide).symm.trans hw
  cases hw'
  have hi' : (.ok (.ld 5 10 0) : Except DecodeError Instr) = .ok i :=
    (show decode 0x00053283 = .ok (.ld 5 10 0) by decide).symm.trans hi
  cases hi'
  have ha' : some ((0x80200100 : Word), 8) = some (a, n) :=
    (show dataAccess (.ld 5 10 0) (withWord 0x00053283 loadStart) = some (0x80200100, 8) by
      decide).symm.trans ha
  cases ha'
  decide

theorem witness_SystemWordsStopTheHart :
    (withWord 0x00000073 (at10 [])).fetch = .ok 0x00000073 ∧
    (withWord 0x00100073 (at10 [])).fetch = .ok 0x00100073 ∧
    (withWord 0xC0002573 (at10 [])).fetch = .ok 0xC0002573 ∧ opcodeOf 0xC0002573 = 0x73 := by
  decide
theorem witness_ZeroedMemoryStopsTheHart :
    construct ⟨0, 4⟩ = some ⟨State.init ⟨0, 4⟩, true⟩ ∧ 4 ≤ (⟨0, 4⟩ : Config).memCapacity := by decide

/-- Each width at its last place in bounds and one byte further: loads and stores alike. -/
theorem witness_SignedLoads : ∀ n ∈ [1, 2, 4],
    (let s := at10 [(10, lastAddress n)]
     InBounds s (s.readReg 10 + 0) n ∧ ¬ InBounds s (s.readReg 10 + 1) n) := by
  unfold InBounds; decide
theorem witness_DoubleAndUnsignedLoads : ∀ n ∈ [8, 1, 2, 4],
    (let s := at10 [(10, 0x80200000)]
     InBounds s (s.readReg 10 + 0) n ∧ ¬ InBounds s (s.readReg 10 + (-1)) n) := by
  unfold InBounds; decide
theorem witness_Stores : ∀ n ∈ [1, 2, 4, 8],
    (let s := at10 [(10, lastAddress n), (6, 1)]
     InBounds s (s.readReg 10 + 0) n ∧ ¬ InBounds s (s.readReg 10 + 1) n) := by
  unfold InBounds; decide
theorem witness_DoubleStoredIsLoadedBack :
    ∃ t, exec (.sd 10 6 3) storeStart = .next t := ⟨_, rfl⟩
theorem witness_NextFetchSeesTheStore :
    let s := at10 [(10, 0x80200000), (5, 0x00700393)]
    s.readReg 10 + 20 = s.pc + 4 ∧ ∃ t, exec (.sw 10 5 20) s = .next t := ⟨by decide, ⟨_, rfl⟩⟩

theorem witness_ShiftsByConstant :
    0x43F35293#32 &&& 0xFC00707F = 0x40005013 ∧
    opcodeOf 0x04131293 = 0x13 ∧ funct3Of 0x04131293 = 1 ∧ funct6Of 0x04131293 ≠ 0 := by decide
theorem witness_ShiftsOfWordsByConstant :
    opcodeOf 0x0203129B = 0x1B ∧ funct3Of 0x0203129B = 1 ∧ funct7Of 0x0203129B ≠ 0 := by decide

/-- V8's operands, equal ones and different ones. -/
theorem witness_BranchesOnEquality : regStart.readReg 6 = regStart.readReg 6 ∧
    regStart.readReg 6 ≠ regStart.readReg 7 := by decide
theorem witness_BranchesOnSignedOrder :
    (regStart.readReg 6).toInt < (regStart.readReg 7).toInt ∧
    ¬ (regStart.readReg 6).toInt < (regStart.readReg 6).toInt := by decide
theorem witness_BranchesOnUnsignedOrder :
    (regStart.readReg 7).toNat < (regStart.readReg 6).toNat ∧
    ¬ (regStart.readReg 6).toNat < (regStart.readReg 6).toNat := by decide

theorem witness_InspectionsReadTheState : 32 ≤ 32 ∧ InBounds loadStart 0x802FFFF8 8 ∧
    ¬ InBounds loadStart 0x802FFFF9 8 := by unfold InBounds; decide

set_option maxRecDepth 8000 in
theorem witness_LoaderPlacesOneSegment : 58 ≤ s5File.length ∧
    fileField s5File 32 8 + 56 * fileField s5File 56 2 ≤ s5File.length ∧
    loadSegments s5File (fileField s5File 32 8) (fileField s5File 56 2)
      = [⟨1, 120, State.reset.config.baseOffset.toNat, 4, 4 + 8⟩] ∧
    (4 = 0 ∨ 120 + 4 ≤ s5File.length) ∧ 4 + 8 ≤ State.reset.config.memCapacity := by decide
set_option maxRecDepth 8000 in
theorem witness_LoaderWritesMemoryOnly : dirty.Inv ∧
    (∃ e, loadImage s5File ⟨dirty, true⟩ = .next e) ∧
    ((Emulator.mk dirty false).fresh = false ∧
      ∃ e, Emulator.afterCalls ⟨dirty, false⟩ [.inspectPc, .step, .inspectRegister 5] = some e) :=
  ⟨by decide, ⟨_, rfl⟩, rfl, ⟨_, rfl⟩⟩
theorem witness_PlacedWordIsFetched :
    InBounds (State.reset.setPc 0x802FFFFC) 0x802FFFFC 4 ∧ 0xFFFFFFFF < 2 ^ 32 := by
  unfold InBounds; decide

end Sys2Proof.Tests
end

