-- ==== Sys2Proof/Proofs/Extensions.lean ====
section
/-!
PROOFS. The unsigned readings of the two extensions (spec/00_scope.md R12), one lemma each, and the
obligation that states them together.
-/

namespace Sys2Proof

theorem toNat_zext {n : Nat} (hn : n ≤ 64) (v : BitVec n) : (zext v).toNat = v.toNat :=
  BitVec.toNat_setWidth_of_le hn

theorem toNat_sext_of_msb_false {n : Nat} (hn : n ≤ 64) {v : BitVec n} (hv : v.msb = false) :
    (sext v).toNat = v.toNat := by
  rw [sext, BitVec.signExtend_eq_setWidth_of_msb_false hv, BitVec.toNat_setWidth_of_le hn]

/-- `2 ^ 64 - 2 ^ n` is the value of the copies of the sign above `v`; the subtraction does not
truncate because `n ≤ 64`. -/
theorem toNat_sext_of_msb_true {n : Nat} (hn : n ≤ 64) {v : BitVec n} (hv : v.msb = true) :
    (sext v).toNat = v.toNat + 2 ^ 64 - 2 ^ n := by
  have hpow : 2 ^ n ≤ 2 ^ 64 := Nat.pow_le_pow_right Nat.two_pos hn
  calc (sext v).toNat
      = v.toNat + (2 ^ 64 - 2 ^ n) := by
        rw [sext, BitVec.toNat_signExtend, if_pos hv, BitVec.toNat_setWidth_of_le hn]
    _ = v.toNat + 2 ^ 64 - 2 ^ n := (Nat.add_sub_assoc hpow _).symm

/-- Settles O1, by the sign bit of `v`: it is bit `N - 1`, and each of its values has its lemma. -/
theorem extensionsReadAsStated : Obligations.ExtensionsReadAsStated := by
  intro N _ hN v
  refine ⟨?_, toNat_zext hN v⟩
  rw [← BitVec.msb_eq_getLsbD_last]
  cases hv : v.msb with
  | false => simpa using toNat_sext_of_msb_false hN hv
  | true => simpa using toNat_sext_of_msb_true hN hv

end Sys2Proof
end

