-- ==== Sys2Proof/Proofs/MemoryAccess.lean ====
section
/-!
PROOFS. `MemRead` and `MemWrite` (spec/20_memory.md R58, R59): the statements' bounds condition and
little-endian value tied to the model's, the whole effect of a write in bounds on Memory, and the
two obligations that follow.
-/

namespace Sys2Proof.Machine

/-! ### The bounds condition and the value (R53, R58) -/

theorem State.inBounds_eq_true_iff {s : State} {a : Word} {n : Nat} :
    s.inBounds a n = true ↔ InBounds s a n :=
  State.inBounds_iff

theorem State.inBounds_eq_false_iff {s : State} {a : Word} {n : Nat} :
    s.inBounds a n = false ↔ ¬ InBounds s a n := by
  rw [← State.inBounds_eq_true_iff, Bool.not_eq_true]

theorem memValue_eq_readBytes (s : State) (a : Word) (n : Nat) :
    MemValue s a n = s.mem.readBytes (s.index a).toNat n := rfl

theorem memValue_lt (s : State) (a : Word) (n : Nat) : MemValue s a n < 2 ^ (8 * n) :=
  Memory.readBytes_lt s.mem (s.index a).toNat n

theorem State.memRead_eq_memValue {s : State} {a : Word} {n : Nat} (hin : InBounds s a n) :
    s.memRead a n = .ok (MemValue s a n) := by
  rw [memValue_eq_readBytes, State.memRead_ok (State.inBounds_eq_true_iff.mpr hin)]

/-! ### The bytes of a store (R59) -/

theorem Memory.readByte_setBytes_leBytes_inside (m : Memory) (i : Nat) {n k : Nat} (v : Word)
    (hk : k < n) : (m.setBytes i (leBytes n v)).readByte (i + k) = byteOf v k := by
  rw [Memory.readByte_setBytes, leBytes_length, if_pos ⟨by omega, by omega⟩,
    Nat.add_sub_cancel_left, leBytes_getD n v k hk]

theorem Memory.readByte_setBytes_leBytes_outside (m : Memory) {i j n : Nat} (v : Word)
    (hj : ¬ (i ≤ j ∧ j < i + n)) : (m.setBytes i (leBytes n v)).readByte j = m.readByte j := by
  rw [Memory.readByte_setBytes, leBytes_length, if_neg hj]

/-- The premise on the index keeps `Int.toNat` from moving a byte that lies below Memory to its
first byte. -/
theorem memoryAfterStore_of_mem_eq {s t : State} {a : Word} {n : Nat} {v : Word}
    (hi : 0 ≤ s.index a) (ht : t.mem = s.mem.setBytes (s.index a).toNat (leBytes n v)) :
    MemoryAfterStore s t a n v := by
  unfold MemoryAfterStore
  rw [ht]
  constructor
  · intro k hk
    exact Memory.readByte_setBytes_leBytes_inside s.mem _ v hk
  · intro j hj
    exact Memory.readByte_setBytes_leBytes_outside s.mem v (by omega)

/-! ### The obligations -/

/-- Settles O15: the bounds check decides which of its two answers `MemRead` gives. -/
theorem memReadIsLittleEndianAndChecked : Obligations.MemReadIsLittleEndianAndChecked := by
  intro s a n
  constructor
  · intro hin
    exact ⟨State.memRead_eq_memValue hin, memValue_lt s a n⟩
  · intro hout
    exact State.memRead_error (State.inBounds_eq_false_iff.mpr hout)

/-- Settles O16: in bounds the new state differs in `mem` alone, and `memoryAfterStore_of_mem_eq`
says what each byte of it is. -/
theorem memWriteSetsExactlyItsBytes : Obligations.MemWriteSetsExactlyItsBytes := by
  intro s a n v
  constructor
  · intro hin
    have hb : s.inBounds a n = true := State.inBounds_eq_true_iff.mpr hin
    obtain ⟨hindex, -⟩ := State.inBounds_iff.mp hb
    exact ⟨_, State.memWrite_ok hb, memoryAfterStore_of_mem_eq hindex rfl, rfl, rfl, rfl⟩
  · intro hout
    exact State.memWrite_error (State.inBounds_eq_false_iff.mpr hout)

end Sys2Proof.Machine
end

