-- ==== Sys2Proof/Proofs/Immediates.lean ====
section
/-!
PROOFS. The signed readings of the five immediates (spec/30_encoding.md R99 to R103). The decoder
builds each one from bit vectors; the statements count with integers. The two are tied together in
three places: a slice, a concatenation and `sext`, each once for every width.
-/

namespace Sys2Proof

open Machine

/-! ### Slices and concatenations as unsigned integers (00_scope.md R10) -/

theorem toNat_slice (w : InstrWord) (hi lo : Nat) :
    (w.extractLsb' lo (hi + 1 - lo)).toNat = bitsOf w hi lo := by
  rw [BitVec.extractLsb'_toNat, Nat.shiftRight_eq_div_pow, bitsOf]

theorem toNat_append_eq_mul_add {m n : Nat} (a : BitVec m) (b : BitVec n) :
    (a ++ b).toNat = a.toNat * 2 ^ n + b.toNat := by
  rw [BitVec.toNat_append, ← Nat.shiftLeft_add_eq_or_of_lt b.isLt, Nat.shiftLeft_eq]

/-! ### Sign extension as a signed integer (00_scope.md R12) -/

theorem toInt_sext {n : Nat} (hn : n ≤ 64) (v : BitVec n) : (sext v).toInt = v.toInt :=
  BitVec.toInt_signExtend_of_le hn

theorem toInt_sext_eq_bmod {n : Nat} (hn : n ≤ 64) (v : BitVec n) :
    (sext v).toInt = Int.bmod v.toNat (2 ^ n) :=
  (toInt_sext hn v).trans (BitVec.toInt_eq_toNat_bmod v)

theorem toInt_sext_mem_range {n : Nat} (hn : n ≤ 64) (v : BitVec n) :
    -2 ^ (n - 1) ≤ (sext v).toInt ∧ (sext v).toInt < 2 ^ (n - 1) := by
  rw [toInt_sext hn v]
  exact ⟨BitVec.le_toInt v, BitVec.toInt_lt⟩

/-! ### Immediates whose low bits are the format's zeros (R101 to R103) -/

theorem pow_dvd_toInt_sext_append_zero {n k : Nat} (hnk : n + k ≤ 64) (v : BitVec n) :
    (2 ^ k : Int) ∣ (sext (v ++ 0#k)).toInt := by
  rw [toInt_sext hnk, BitVec.toInt_append_zero]
  exact Int.dvd_mul_right _ _

/-- The zeros may be put below `v` before the extension or after it, as in the two forms of R102: a
bit of either side is such a zero, a bit of `v`, or a copy of its sign. -/
theorem sext_append_zero {n k : Nat} (hn : 0 < n) (hnk : n + k ≤ 64) (v : BitVec n) :
    sext (v ++ 0#k) = sext v <<< k := by
  refine BitVec.eq_of_getLsbD_eq fun i hi => ?_
  simp only [sext, BitVec.getLsbD_signExtend, BitVec.getLsbD_shiftLeft, BitVec.getLsbD_append,
    BitVec.msb_append]
  obtain hlow | hmid | hhigh : i < k ∨ (k ≤ i ∧ i < n + k) ∨ n + k ≤ i := by omega
  · simp [hlow, show i < n + k by omega]
  · obtain ⟨hk, hi'⟩ := hmid
    simp [hi, hi', Nat.not_lt.mpr hk, show i - k < 64 by omega, show i - k < n by omega]
  · simp [hi, Nat.not_lt.mpr hhigh, show ¬ i < k by omega, show i - k < 64 by omega,
      show ¬ i - k < n by omega, hn.ne']

/-! ### The signed reading of each immediate -/

theorem toInt_immIOf (w : InstrWord) :
    (immIOf w).toInt = Int.bmod (bitsOf w 31 20) (2 ^ 12) := by
  rw [immIOf, toInt_sext_eq_bmod (by decide), toNat_slice w 31 20]

theorem toInt_immSOf (w : InstrWord) :
    (immSOf w).toInt = Int.bmod (bitsOf w 31 25 * 2 ^ 5 + bitsOf w 11 7 : Nat) (2 ^ 12) := by
  rw [immSOf, toInt_sext_eq_bmod (by decide), toNat_append_eq_mul_add, toNat_slice w 31 25,
    toNat_slice w 11 7]

/-- The bits of the B-immediate before the extension (R101), in their order. -/
theorem toNat_immBBits (w : InstrWord) :
    (w.extractLsb' 31 1 ++ w.extractLsb' 7 1 ++ w.extractLsb' 25 6 ++ w.extractLsb' 8 4 ++
      0#1).toNat = bitsOf w 31 31 * 2 ^ 12 + bitsOf w 7 7 * 2 ^ 11 + bitsOf w 30 25 * 2 ^ 5 +
      bitsOf w 11 8 * 2 := by
  simp only [toNat_append_eq_mul_add, BitVec.toNat_ofNat]
  rw [toNat_slice w 31 31, toNat_slice w 7 7, toNat_slice w 30 25, toNat_slice w 11 8]
  omega

theorem toInt_immBOf (w : InstrWord) :
    (immBOf w).toInt = Int.bmod (bitsOf w 31 31 * 2 ^ 12 + bitsOf w 7 7 * 2 ^ 11 +
      bitsOf w 30 25 * 2 ^ 5 + bitsOf w 11 8 * 2 : Nat) (2 ^ 13) := by
  rw [immBOf, toInt_sext_eq_bmod (by decide), toNat_immBBits]

theorem toInt_immUOf (w : InstrWord) :
    (immUOf w).toInt = Int.bmod (bitsOf w 31 12 * 2 ^ 12 : Nat) (2 ^ 32) := by
  rw [immUOf, toInt_sext_eq_bmod (by decide), toNat_append_eq_mul_add, toNat_slice w 31 12,
    BitVec.toNat_zero, Nat.add_zero]

/-- The bits of the J-immediate before the extension (R103), in their order. -/
theorem toNat_immJBits (w : InstrWord) :
    (w.extractLsb' 31 1 ++ w.extractLsb' 12 8 ++ w.extractLsb' 20 1 ++ w.extractLsb' 21 10 ++
      0#1).toNat = bitsOf w 31 31 * 2 ^ 20 + bitsOf w 19 12 * 2 ^ 12 + bitsOf w 20 20 * 2 ^ 11 +
      bitsOf w 30 21 * 2 := by
  simp only [toNat_append_eq_mul_add, BitVec.toNat_ofNat]
  rw [toNat_slice w 31 31, toNat_slice w 19 12, toNat_slice w 20 20, toNat_slice w 30 21]
  omega

theorem toInt_immJOf (w : InstrWord) :
    (immJOf w).toInt = Int.bmod (bitsOf w 31 31 * 2 ^ 20 + bitsOf w 19 12 * 2 ^ 12 +
      bitsOf w 20 20 * 2 ^ 11 + bitsOf w 30 21 * 2 : Nat) (2 ^ 21) := by
  rw [immJOf, toInt_sext_eq_bmod (by decide), toNat_immJBits]

/-! ### The obligations -/

/-- Settles O3: both immediates are sign extensions of 12 bits, whose range is that of R99. -/
theorem twelveBitImmediatesAreSigned : Obligations.TwelveBitImmediatesAreSigned := by
  intro w
  have hI : -2 ^ 11 ≤ (immIOf w).toInt ∧ (immIOf w).toInt < 2 ^ 11 :=
    toInt_sext_mem_range (by decide) _
  have hS : -2 ^ 11 ≤ (immSOf w).toInt ∧ (immSOf w).toInt < 2 ^ 11 :=
    toInt_sext_mem_range (by decide) _
  exact ⟨⟨toInt_immIOf w, by omega, by omega⟩, toInt_immSOf w, by omega, by omega⟩

/-- Settles O4: the greatest value of 13 or 21 bits is odd, so evenness takes one more off. -/
theorem targetImmediatesAreSignedAndEven : Obligations.TargetImmediatesAreSignedAndEven := by
  intro w
  have hB : -2 ^ 12 ≤ (immBOf w).toInt ∧ (immBOf w).toInt < 2 ^ 12 :=
    toInt_sext_mem_range (by decide) _
  have hJ : -2 ^ 20 ≤ (immJOf w).toInt ∧ (immJOf w).toInt < 2 ^ 20 :=
    toInt_sext_mem_range (by decide) _
  have hBeven : 2 ∣ (immBOf w).toInt := pow_dvd_toInt_sext_append_zero (k := 1) (by decide) _
  have hJeven : 2 ∣ (immJOf w).toInt := pow_dvd_toInt_sext_append_zero (k := 1) (by decide) _
  exact ⟨⟨toInt_immBOf w, by omega, by omega, hBeven⟩,
    toInt_immJOf w, by omega, by omega, hJeven⟩

/-- Settles O5: the greatest multiple of 4096 below `2 ^ 31` is `2 ^ 31 - 4096`. -/
theorem upperImmediateIsSigned : Obligations.UpperImmediateIsSigned := by
  intro w
  have hU : -2 ^ 31 ≤ (immUOf w).toInt ∧ (immUOf w).toInt < 2 ^ 31 :=
    toInt_sext_mem_range (by decide) _
  have hstep : 4096 ∣ (immUOf w).toInt := pow_dvd_toInt_sext_append_zero (k := 12) (by decide) _
  exact ⟨toInt_immUOf w, by omega, by omega, hstep, sext_append_zero (by decide) (by decide) _⟩

end Sys2Proof
end

