-- ==== Sys2Proof/Proofs/FunctionCodes.lean ====
section
/-!
PROOFS. The words of opcodes `0x33` and `0x3B` whose `funct7` no instruction has
(spec/30_encoding.md R109; 42_integer_register.md R196), the M extension's among them (R115).
-/

namespace Sys2Proof

theorem decode_of_opcode_op {w : InstrWord} (hop : opcodeOf w = 0x33) :
    decode w = decodeOp w := by
  rw [decode, hop]
  rfl

theorem decode_of_opcode_op32 {w : InstrWord} (hop : opcodeOf w = 0x3B) :
    decode w = decodeOp32 w := by
  rw [decode, hop]
  rfl

theorem decodeOp_of_other_funct7 {w : InstrWord} (hbase : funct7Of w ≠ 0x00)
    (halt : funct7Of w ≠ 0x20) : decodeOp w = .error (unsupportedFunctOf w) := by
  unfold decodeOp
  split
  next h => exact absurd h hbase
  next h => exact absurd h halt
  next => rfl

theorem decodeOp32_of_other_funct7 {w : InstrWord} (hbase : funct7Of w ≠ 0x00)
    (halt : funct7Of w ≠ 0x20) : decodeOp32 w = .error (unsupportedFunctOf w) := by
  unfold decodeOp32
  split
  next h => exact absurd h hbase
  next h => exact absurd h halt
  next => rfl

/-- Settles O10: `0x01` is neither of the two values of `funct7` that these opcodes have. -/
theorem multiplyAndDivideAreRejected : Obligations.MultiplyAndDivideAreRejected := by
  intro w hop hf7
  have hbase : funct7Of w ≠ 0x00 := by rw [hf7]; decide
  have halt : funct7Of w ≠ 0x20 := by rw [hf7]; decide
  have hpayload : unsupportedFunctOf w = .unsupportedFunct (opcodeOf w) (funct3Of w) 0x01 := by
    rw [unsupportedFunctOf, hf7]
  rw [← hpayload]
  obtain hop | hop32 := hop
  · rw [decode_of_opcode_op hop, decodeOp_of_other_funct7 hbase halt]
  · rw [decode_of_opcode_op32 hop32, decodeOp32_of_other_funct7 hbase halt]

end Sys2Proof
end

