-- ==== Sys2Proof/Proofs/StepCycle.lean ====
section
/-!
PROOFS. The two ends of the step cycle: the fetch at the pc (spec/40_step_cycle.md R141), and the pc
that an instruction leaves behind (R146, R147). For the pc there is one lemma per way of retiring;
`redirect` is tied to the branches, whose conditions it states on the integers (R11).
-/

namespace Sys2Proof.Machine

/-! ### The fetch (R141) -/

theorem State.fetch_eq_memValue {s : State} (hin : InBounds s s.pc 4) :
    s.fetch = .ok (BitVec.ofNat 32 (MemValue s s.pc 4)) := by
  rw [State.fetch, State.memRead_eq_memValue hin]

theorem State.fetch_out_of_bounds {s : State} (hout : ¬ InBounds s s.pc 4) :
    s.fetch = .error (.outOfBounds s.pc 4) := by
  rw [State.fetch, State.memRead_error (State.inBounds_eq_false_iff.mpr hout)]

/-- Settles O24: the bounds check at the pc decides between the word and the error. -/
theorem fetchReadsFourBytesAtPc : Obligations.FetchReadsFourBytesAtPc := by
  intro s
  constructor
  · intro hin
    exact ⟨State.fetch_eq_memValue hin, memValue_lt s s.pc 4⟩
  · intro hout
    exact step_of_fetch_error (State.fetch_out_of_bounds hout)

/-! ### The conditions of the branches, on the signed and unsigned readings (R11) -/

theorem lessSigned_iff {a b : Word} : lessSigned a b = true ↔ a.toInt < b.toInt :=
  decide_eq_true_iff

theorem not_lessSigned_iff {a b : Word} : (!lessSigned a b) = true ↔ b.toInt ≤ a.toInt := by
  rw [Bool.not_eq_true', ← Bool.not_eq_true, lessSigned_iff, Int.not_lt]

theorem lessUnsigned_iff {a b : Word} : lessUnsigned a b = true ↔ a.toNat < b.toNat :=
  decide_eq_true_iff

theorem not_lessUnsigned_iff {a b : Word} : (!lessUnsigned a b) = true ↔ b.toNat ≤ a.toNat := by
  rw [Bool.not_eq_true', ← Bool.not_eq_true, lessUnsigned_iff, Nat.not_lt]

/-- What `exec_shape` leaves open about a branch: it is taken exactly when `redirect` has a target,
and goes there. FENCE counts as a branch that is never taken. -/
theorem exec_eq_branchTo_redirect {i : Instr} (s : State) (hdest : i.destination = none)
    (hstore : i.isStore = false) :
    ∃ taken target, exec i s = branchTo taken target s ∧
      redirect i s = if taken = true then some target else none := by
  cases i
  case beq => exact ⟨_, _, rfl, if_congr beq_iff_eq.symm rfl rfl⟩
  case bne => exact ⟨_, _, rfl, if_congr bne_iff_ne.symm rfl rfl⟩
  case blt => exact ⟨_, _, rfl, if_congr lessSigned_iff.symm rfl rfl⟩
  case bge => exact ⟨_, _, rfl, if_congr not_lessSigned_iff.symm rfl rfl⟩
  case bltu => exact ⟨_, _, rfl, if_congr lessUnsigned_iff.symm rfl rfl⟩
  case bgeu => exact ⟨_, _, rfl, if_congr not_lessUnsigned_iff.symm rfl rfl⟩
  case fence => exact ⟨false, 0, rfl, rfl⟩
  case sb | sh | sw | sd => cases hstore
  all_goals cases hdest

/-! ### The pc after each way of retiring (R146, R147) -/

theorem retireReg_pc {rd : RegIdx} {v : Word} {s t : State} (h : retireReg rd v s = .next t) :
    t.pc = s.pc + 4 := by
  cases h
  rfl

theorem loadTo_pc {rd : RegIdx} {ea : Word} {n : Nat} {extend : Nat → Word} {s t : State}
    (h : loadTo rd ea n extend s = .next t) : t.pc = s.pc + 4 := by
  obtain ⟨-, hnext⟩ | ⟨-, hfault⟩ := loadTo_cases rd ea n extend s
  · cases hnext.symm.trans h
    rfl
  · cases hfault.symm.trans h

theorem storeAt_pc {ea : Word} {n : Nat} {v : Word} {s t : State}
    (h : storeAt ea n v s = .next t) : t.pc = s.pc + 4 := by
  obtain ⟨-, hnext⟩ | ⟨-, hfault⟩ := storeAt_cases ea n v s
  · cases hnext.symm.trans h
    rfl
  · cases hfault.symm.trans h

theorem branchTo_pc {taken : Bool} {target : Word} {s t : State}
    (h : branchTo taken target s = .next t) :
    t.pc = if taken = true then target else s.pc + 4 := by
  cases (branchTo_cases taken target s).symm.trans h
  rfl

theorem jumpTo_pc {rd : RegIdx} {target : Word} {s t : State}
    (h : jumpTo rd target s = .next t) : t.pc = target := by
  cases h
  rfl

/-- Settles O28, by the five shapes of an instruction: `redirect` has no target for a register
result, a load and a store, always one for a jump, and the branch's own when it is taken. -/
theorem pcIsSequencedOrRedirected : Obligations.PcIsSequencedOrRedirected := by
  intro i s t h
  obtain ⟨hdest, hstore, -, -⟩ | ⟨rd, -, -, -, hredirect, v, hexec⟩ |
    ⟨rd, ea, n, -, -, -, hredirect, extend, hexec⟩ | ⟨ea, n, -, -, -, hredirect, v, hexec⟩ |
    ⟨rd, target, -, -, -, hredirect, hexec⟩ := exec_shape i s
  · obtain ⟨taken, target, hexec, hredirect⟩ := exec_eq_branchTo_redirect s hdest hstore
    have hpc := branchTo_pc (hexec.symm.trans h)
    rw [hredirect, hpc]
    cases taken <;> rfl
  · rw [hredirect]
    exact retireReg_pc (hexec.symm.trans h)
  · rw [hredirect]
    exact loadTo_pc (hexec.symm.trans h)
  · rw [hredirect]
    exact storeAt_pc (hexec.symm.trans h)
  · rw [hredirect]
    exact jumpTo_pc (hexec.symm.trans h)

end Sys2Proof.Machine
end

