-- ==== Sys2Proof/Proofs/Rows.lean ====
section
/-!
PROOFS. The rows of spec/30_encoding.md R110 against the decoder (R109): what a row's masked bits
say of the function codes of a word, and that a word which decodes has the masked bits of the row it
decodes to.
-/

namespace Sys2Proof

open Machine

/-! ### Masked bits as function codes

A mask keeps the opcode and up to two function codes, so its value on a word is the word that has
these and zeros elsewhere. -/

theorem and_opcodeMask_eq_iff {w : InstrWord} {op : BitVec 7} :
    w &&& 0x0000007F = uWord 0 0 op ↔ opcodeOf w = op := by
  have hkeep : w &&& 0x0000007F = uWord 0 0 (opcodeOf w) := by
    rw [← uWord_mask (rdOf w) (opcodeOf w) (immUOf w), uWord_fields]
  rw [hkeep]
  constructor
  · intro h
    simpa using congrArg opcodeOf h
  · rintro rfl
    rfl

theorem and_funct3Mask_eq_iff {w : InstrWord} {op : BitVec 7} {f3 : BitVec 3} :
    w &&& 0x0000707F = iWord 0 0 f3 0 op ↔ opcodeOf w = op ∧ funct3Of w = f3 := by
  have hkeep : w &&& 0x0000707F = iWord 0 0 (funct3Of w) 0 (opcodeOf w) := by
    rw [← iWord_mask (rs1Of w) (rdOf w) (funct3Of w) (opcodeOf w) (immIOf w), iWord_fields]
  rw [hkeep]
  constructor
  · intro h
    exact ⟨by simpa using congrArg opcodeOf h, by simpa using congrArg funct3Of h⟩
  · rintro ⟨rfl, rfl⟩
    rfl

theorem and_funct6Mask_eq_iff {w : InstrWord} {op : BitVec 7} {f3 : BitVec 3} {f6 : BitVec 6} :
    w &&& 0xFC00707F = shiftWord f6 0 0 f3 0 op ↔
      opcodeOf w = op ∧ funct3Of w = f3 ∧ funct6Of w = f6 := by
  have hkeep : w &&& 0xFC00707F = shiftWord (funct6Of w) 0 0 (funct3Of w) 0 (opcodeOf w) := by
    rw [← shiftWord_mask (funct6Of w) (shamt6Of w) (rs1Of w) (rdOf w) (funct3Of w) (opcodeOf w),
      shiftWord_fields]
  rw [hkeep]
  constructor
  · intro h
    exact ⟨by simpa using congrArg opcodeOf h, by simpa using congrArg funct3Of h,
      by simpa using congrArg funct6Of h⟩
  · rintro ⟨rfl, rfl, rfl⟩
    rfl

theorem and_funct7Mask_eq_iff {w : InstrWord} {op : BitVec 7} {f3 : BitVec 3} {f7 : BitVec 7} :
    w &&& 0xFE00707F = rWord f7 0 0 f3 0 op ↔
      opcodeOf w = op ∧ funct3Of w = f3 ∧ funct7Of w = f7 := by
  have hkeep : w &&& 0xFE00707F = rWord (funct7Of w) 0 0 (funct3Of w) 0 (opcodeOf w) := by
    rw [← rWord_mask (funct7Of w) (rs2Of w) (rs1Of w) (rdOf w) (funct3Of w) (opcodeOf w),
      rWord_fields]
  rw [hkeep]
  constructor
  · intro h
    exact ⟨by simpa using congrArg opcodeOf h, by simpa using congrArg funct3Of h,
      by simpa using congrArg funct7Of h⟩
  · rintro ⟨rfl, rfl, rfl⟩
    rfl

/-! ### What decodes has the masked bits of its row

One lemma per opcode that has function codes. In each the arms that answer an instruction give the
function codes of the word, and the others answer an error. -/

section

variable {w : InstrWord} {i : Instr}

theorem rowBits_of_decodeLoad (hop : opcodeOf w = 0x03) (h : decodeLoad w = .ok i) :
    w &&& i.rowBits.mask = i.rowBits.bits := by
  unfold decodeLoad at h
  split at h <;> cases h
  all_goals next h3 => exact (and_funct3Mask_eq_iff.mpr ⟨hop, h3⟩).trans rfl

theorem rowBits_of_decodeMiscMem (hop : opcodeOf w = 0x0F) (h : decodeMiscMem w = .ok i) :
    w &&& i.rowBits.mask = i.rowBits.bits := by
  unfold decodeMiscMem at h
  split at h <;> cases h
  next h3 => exact (and_funct3Mask_eq_iff.mpr ⟨hop, h3⟩).trans rfl

theorem rowBits_of_decodeShiftLeftImm (hop : opcodeOf w = 0x13) (h3 : funct3Of w = 1)
    (h : decodeShiftLeftImm w = .ok i) : w &&& i.rowBits.mask = i.rowBits.bits := by
  unfold decodeShiftLeftImm at h
  split at h <;> cases h
  next h6 => exact (and_funct6Mask_eq_iff.mpr ⟨hop, h3, h6⟩).trans rfl

theorem rowBits_of_decodeShiftRightImm (hop : opcodeOf w = 0x13) (h3 : funct3Of w = 5)
    (h : decodeShiftRightImm w = .ok i) : w &&& i.rowBits.mask = i.rowBits.bits := by
  unfold decodeShiftRightImm at h
  split at h <;> cases h
  all_goals next h6 => exact (and_funct6Mask_eq_iff.mpr ⟨hop, h3, h6⟩).trans rfl

theorem rowBits_of_decodeOpImm (hop : opcodeOf w = 0x13) (h : decodeOpImm w = .ok i) :
    w &&& i.rowBits.mask = i.rowBits.bits := by
  unfold decodeOpImm at h
  split at h
  case h_2 h3 => exact rowBits_of_decodeShiftLeftImm hop h3 h
  case h_6 h3 => exact rowBits_of_decodeShiftRightImm hop h3 h
  all_goals cases h
  all_goals next h3 => exact (and_funct3Mask_eq_iff.mpr ⟨hop, h3⟩).trans rfl

theorem rowBits_of_decodeOpImm32 (hop : opcodeOf w = 0x1B) (h : decodeOpImm32 w = .ok i) :
    w &&& i.rowBits.mask = i.rowBits.bits := by
  unfold decodeOpImm32 at h
  split at h
  next h3 =>
    cases h
    exact (and_funct3Mask_eq_iff.mpr ⟨hop, h3⟩).trans rfl
  next h3 =>
    split at h <;> cases h
    next h7 => exact (and_funct7Mask_eq_iff.mpr ⟨hop, h3, h7⟩).trans rfl
  next h3 =>
    split at h <;> cases h
    all_goals next h7 => exact (and_funct7Mask_eq_iff.mpr ⟨hop, h3, h7⟩).trans rfl
  next => cases h

theorem rowBits_of_decodeStore (hop : opcodeOf w = 0x23) (h : decodeStore w = .ok i) :
    w &&& i.rowBits.mask = i.rowBits.bits := by
  unfold decodeStore at h
  split at h <;> cases h
  all_goals next h3 => exact (and_funct3Mask_eq_iff.mpr ⟨hop, h3⟩).trans rfl

theorem rowBits_of_decodeOpBase (hop : opcodeOf w = 0x33) (h7 : funct7Of w = 0x00)
    (h : decodeOpBase w = .ok i) : w &&& i.rowBits.mask = i.rowBits.bits := by
  unfold decodeOpBase at h
  split at h <;> cases h
  all_goals next h3 => exact (and_funct7Mask_eq_iff.mpr ⟨hop, h3, h7⟩).trans rfl

theorem rowBits_of_decodeOpAlt (hop : opcodeOf w = 0x33) (h7 : funct7Of w = 0x20)
    (h : decodeOpAlt w = .ok i) : w &&& i.rowBits.mask = i.rowBits.bits := by
  unfold decodeOpAlt at h
  split at h <;> cases h
  all_goals next h3 => exact (and_funct7Mask_eq_iff.mpr ⟨hop, h3, h7⟩).trans rfl

theorem rowBits_of_decodeOp (hop : opcodeOf w = 0x33) (h : decodeOp w = .ok i) :
    w &&& i.rowBits.mask = i.rowBits.bits := by
  unfold decodeOp at h
  split at h
  next h7 => exact rowBits_of_decodeOpBase hop h7 h
  next h7 => exact rowBits_of_decodeOpAlt hop h7 h
  next => cases h

theorem rowBits_of_decodeOp32 (hop : opcodeOf w = 0x3B) (h : decodeOp32 w = .ok i) :
    w &&& i.rowBits.mask = i.rowBits.bits := by
  unfold decodeOp32 at h
  split at h
  case h_3 => cases h
  all_goals
    next h7 =>
      split at h <;> cases h
      all_goals next h3 => exact (and_funct7Mask_eq_iff.mpr ⟨hop, h3, h7⟩).trans rfl

theorem rowBits_of_decodeBranch (hop : opcodeOf w = 0x63) (h : decodeBranch w = .ok i) :
    w &&& i.rowBits.mask = i.rowBits.bits := by
  unfold decodeBranch at h
  split at h <;> cases h
  all_goals next h3 => exact (and_funct3Mask_eq_iff.mpr ⟨hop, h3⟩).trans rfl

theorem rowBits_of_decodeJalr (hop : opcodeOf w = 0x67) (h : decodeJalr w = .ok i) :
    w &&& i.rowBits.mask = i.rowBits.bits := by
  unfold decodeJalr at h
  split at h <;> cases h
  next h3 => exact (and_funct3Mask_eq_iff.mpr ⟨hop, h3⟩).trans rfl

/-- The whole decoder, by its opcodes: three have no function code, the last arm is an error. -/
theorem rowBits_of_decode (h : decode w = .ok i) : w &&& i.rowBits.mask = i.rowBits.bits := by
  unfold decode at h
  split at h
  next hop => exact rowBits_of_decodeLoad hop h
  next hop => exact rowBits_of_decodeMiscMem hop h
  next hop => exact rowBits_of_decodeOpImm hop h
  next hop =>
    cases h
    exact (and_opcodeMask_eq_iff.mpr hop).trans rfl
  next hop => exact rowBits_of_decodeOpImm32 hop h
  next hop => exact rowBits_of_decodeStore hop h
  next hop => exact rowBits_of_decodeOp hop h
  next hop =>
    cases h
    exact (and_opcodeMask_eq_iff.mpr hop).trans rfl
  next hop => exact rowBits_of_decodeOp32 hop h
  next hop => exact rowBits_of_decodeBranch hop h
  next hop => exact rowBits_of_decodeJalr hop h
  next hop =>
    cases h
    exact (and_opcodeMask_eq_iff.mpr hop).trans rfl
  next => cases h

end

/-! ### Rows that the opcode and `funct3` select -/

/-- One direction is `rowBits_of_decode`; for the other it is enough to decode a word by its opcode
and `funct3`. -/
theorem decodesExactly_of_funct3 {op : BitVec 7} {f3 : BitVec 3} {bits : InstrWord}
    {build : InstrWord → Instr} (hbits : iWord 0 0 f3 0 op = bits)
    (hrow : ∀ w, (build w).rowBits = ⟨0x0000707F, bits⟩)
    (hdecode : ∀ w, opcodeOf w = op → funct3Of w = f3 → decode w = .ok (build w)) :
    DecodesExactly 0x0000707F bits build := by
  intro w
  constructor
  · intro h
    have hmatch := rowBits_of_decode h
    rwa [hrow] at hmatch
  · intro hmatch
    rw [← hbits] at hmatch
    obtain ⟨hop, h3⟩ := and_funct3Mask_eq_iff.mp hmatch
    exact hdecode w hop h3

end Sys2Proof
end

