-- ==== Sys2Proof/Proofs/OtherFunctionCodes.lean ====
section
/-!
PROOFS. The function codes that are no instruction (spec/30_encoding.md R108, R109), opcode by
opcode: the decoder answers the raw bits of the word, and the step that fetches it changes nothing.
-/

namespace Sys2Proof

open Machine

/-! ### The decoder, opcode by opcode (R106) -/

section

variable {w : InstrWord}

theorem decode_of_opcode_load (hop : opcodeOf w = 0x03) : decode w = decodeLoad w := by
  rw [decode, hop]
  rfl

theorem decode_of_opcode_miscMem (hop : opcodeOf w = 0x0F) : decode w = decodeMiscMem w := by
  rw [decode, hop]
  rfl

theorem decode_of_opcode_opImm (hop : opcodeOf w = 0x13) : decode w = decodeOpImm w := by
  rw [decode, hop]
  rfl

theorem decode_of_opcode_opImm32 (hop : opcodeOf w = 0x1B) : decode w = decodeOpImm32 w := by
  rw [decode, hop]
  rfl

theorem decode_of_opcode_store (hop : opcodeOf w = 0x23) : decode w = decodeStore w := by
  rw [decode, hop]
  rfl

theorem decode_of_opcode_branch (hop : opcodeOf w = 0x63) : decode w = decodeBranch w := by
  rw [decode, hop]
  rfl

theorem decode_of_opcode_jalr (hop : opcodeOf w = 0x67) : decode w = decodeJalr w := by
  rw [decode, hop]
  rfl

/-! ### The codes that each opcode rejects

An arm that answers an instruction is one whose code the hypothesis excludes. -/

/-- R168. -/
theorem decodeLoad_of_other_funct3 (h3 : (funct3Of w).toNat = 7) :
    decodeLoad w = .error (unsupportedFunctOf w) := by
  unfold decodeLoad
  split
  case h_8 => rfl
  all_goals next e => simp [e] at h3

/-- R245. -/
theorem decodeStore_of_other_funct3 (h3 : 4 ≤ (funct3Of w).toNat) :
    decodeStore w = .error (unsupportedFunctOf w) := by
  unfold decodeStore
  split
  case h_5 => rfl
  all_goals next e => simp [e] at h3

/-- R267. -/
theorem decodeBranch_of_other_funct3 (h3 : (funct3Of w).toNat = 2 ∨ (funct3Of w).toNat = 3) :
    decodeBranch w = .error (unsupportedFunctOf w) := by
  unfold decodeBranch
  split
  case h_7 => rfl
  all_goals next e => simp [e] at h3

/-- R282. -/
theorem decodeJalr_of_other_funct3 (h3 : (funct3Of w).toNat ≠ 0) :
    decodeJalr w = .error (unsupportedFunctOf w) := by
  unfold decodeJalr
  split
  next e => simp [e] at h3
  next => rfl

/-- R301. -/
theorem decodeMiscMem_of_other_funct3 (h3 : (funct3Of w).toNat ≠ 0) :
    decodeMiscMem w = .error (unsupportedFunctOf w) := by
  unfold decodeMiscMem
  split
  next e => simp [e] at h3
  next => rfl

/-- R196. With `funct7 = 0x00` every `funct3` is an instruction's. -/
theorem decodeOp_of_other_codes
    (hcodes : ((funct3Of w).toNat, (funct7Of w).toNat) ∉ [(0, 0x00), (0, 0x20), (1, 0x00),
      (2, 0x00), (3, 0x00), (4, 0x00), (5, 0x00), (5, 0x20), (6, 0x00), (7, 0x00)]) :
    decodeOp w = .error (unsupportedFunctOf w) := by
  unfold decodeOp
  split
  next e7 =>
    unfold decodeOpBase
    split
    case h_9 => rfl
    all_goals next e3 => simp [e3, e7] at hcodes
  next e7 =>
    unfold decodeOpAlt
    split
    case h_3 => rfl
    all_goals next e3 => simp [e3, e7] at hcodes
  next => rfl

/-- R196. -/
theorem decodeOp32_of_other_codes
    (hcodes : ((funct3Of w).toNat, (funct7Of w).toNat) ∉ [(0, 0x00), (0, 0x20), (1, 0x00),
      (5, 0x00), (5, 0x20)]) :
    decodeOp32 w = .error (unsupportedFunctOf w) := by
  unfold decodeOp32
  split
  next e7 =>
    split
    case h_4 => rfl
    all_goals next e3 => simp [e3, e7] at hcodes
  next e7 =>
    split
    case h_3 => rfl
    all_goals next e3 => simp [e3, e7] at hcodes
  next => rfl

/-- R224, the shifts by a constant: `funct3` 1 and 5 alone look at further bits. -/
theorem decodeOpImm_of_other_codes
    (hcodes : ((funct3Of w).toNat = 1 ∧ (funct6Of w).toNat ≠ 0b000000) ∨
      ((funct3Of w).toNat = 5 ∧ (funct6Of w).toNat ∉ [0b000000, 0b010000])) :
    decodeOpImm w = .error (unsupportedFunctOf w) := by
  unfold decodeOpImm
  split
  case h_2 e3 =>
    unfold decodeShiftLeftImm
    split
    next e6 => simp [e3, e6] at hcodes
    next => rfl
  case h_6 e3 =>
    unfold decodeShiftRightImm
    split
    case h_3 => rfl
    all_goals next e6 => simp [e3, e6] at hcodes
  case h_9 => rfl
  all_goals next e3 => simp [e3] at hcodes

/-- R224, the W forms. -/
theorem decodeOpImm32_of_other_codes
    (hcodes : (funct3Of w).toNat ∈ [2, 3, 4, 6, 7] ∨
      ((funct3Of w).toNat = 1 ∧ (funct7Of w).toNat ≠ 0x00) ∨
      ((funct3Of w).toNat = 5 ∧ (funct7Of w).toNat ∉ [0x00, 0x20])) :
    decodeOpImm32 w = .error (unsupportedFunctOf w) := by
  unfold decodeOpImm32
  split
  next e3 => simp [e3] at hcodes
  next e3 =>
    split
    next e7 => simp [e3, e7] at hcodes
    next => rfl
  next e3 =>
    split
    case h_3 => rfl
    all_goals next e7 => simp [e3, e7] at hcodes
  next => rfl

end

/-! ### The step -/

theorem step_of_unsupportedFunct {s : State} {w : InstrWord} (hfetch : s.fetch = .ok w)
    (hdecode : decode w = .error (unsupportedFunctOf w)) :
    step s = .fault (.unsupportedFunct (opcodeOf w) (funct3Of w) (funct7Of w)) ∧
      s.afterStep = s := by
  have hstep := step_of_decode_error hfetch hdecode
  exact ⟨hstep, State.afterStep_of_fault hstep⟩

/-- Settles O9, clause by clause: in each the word's opcode selects the part of the decoder that
rejects its function codes. -/
theorem otherFunctionCodesAreRejected : Obligations.OtherFunctionCodesAreRejected := by
  intro s w hfetch f3 f7 f6 hcodes
  apply step_of_unsupportedFunct hfetch
  obtain ⟨hop, h⟩ | ⟨hop, h⟩ | ⟨hop, h⟩ | ⟨hop, h⟩ | ⟨hop, h⟩ | ⟨hop, h⟩ | ⟨hop, h⟩ | ⟨hop, h⟩ |
    ⟨hop, h⟩ := hcodes
  · exact (decode_of_opcode_load hop).trans (decodeLoad_of_other_funct3 h)
  · exact (decode_of_opcode_store hop).trans (decodeStore_of_other_funct3 h)
  · exact (decode_of_opcode_branch hop).trans (decodeBranch_of_other_funct3 h)
  · exact (decode_of_opcode_jalr hop).trans (decodeJalr_of_other_funct3 h)
  · exact (decode_of_opcode_miscMem hop).trans (decodeMiscMem_of_other_funct3 h)
  · exact (decode_of_opcode_op hop).trans (decodeOp_of_other_codes h)
  · exact (decode_of_opcode_op32 hop).trans (decodeOp32_of_other_codes h)
  · exact (decode_of_opcode_opImm hop).trans (decodeOpImm_of_other_codes h)
  · exact (decode_of_opcode_opImm32 hop).trans (decodeOpImm32_of_other_codes h)

end Sys2Proof
end

