-- ==== Sys2Proof/Proofs/Loads.lean ====
section
/-!
PROOFS. The seven loads (spec/41_loads.md R160 to R167): the two ways a loaded value is widened as
arithmetic on its unsigned reading, the whole effect of a load, and the words of opcode `0x03`.
-/

namespace Sys2Proof.Machine

/-! ### The widened value (00_scope.md R12) -/

theorem loadedSigned_eq_ofInt_bmod {bits : Nat} (hbits : bits ≤ 64) (v : Nat) :
    loadedSigned bits v = BitVec.ofInt 64 (Int.bmod v (2 ^ bits)) := by
  have hsigned : (loadedSigned bits v).toInt = Int.bmod v (2 ^ bits) := by
    rw [loadedSigned, toInt_sext hbits, BitVec.toInt_ofNat']
  rw [← hsigned, BitVec.ofInt_toInt]

theorem loadedUnsigned_eq_ofNat {bits v : Nat} (hbits : bits ≤ 64) (hv : v < 2 ^ bits) :
    loadedUnsigned bits v = BitVec.ofNat 64 v := by
  have hword : v < 2 ^ 64 := hv.trans_le (Nat.pow_le_pow_right Nat.two_pos hbits)
  apply BitVec.eq_of_toNat_eq
  rw [loadedUnsigned, toNat_zext hbits, BitVec.toNat_ofNat, BitVec.toNat_ofNat,
    Nat.mod_eq_of_lt hv, Nat.mod_eq_of_lt hword]

/-! ### The effect of a load (R160) -/

theorem writesOnlyReg_writeReg_advance (s : State) (rd : RegIdx) (v : Word) :
    WritesOnlyReg s (s.writeReg rd v).advance rd v :=
  ⟨rfl, fun r => State.readReg_writeReg s rd r v, fun _ => rfl, rfl⟩

theorem loadTo_of_inBounds {s : State} {ea : Word} {n : Nat} (rd : RegIdx) (extend : Nat → Word)
    (hin : InBounds s ea n) : loadTo rd ea n extend s =
      .next (s.writeReg rd (extend (MemValue s ea n))).advance := by
  rw [loadTo, State.memRead_eq_memValue hin]
  rfl

theorem loadTo_of_not_inBounds {s : State} {ea : Word} {n : Nat} (rd : RegIdx)
    (extend : Nat → Word) (hout : ¬ InBounds s ea n) :
    loadTo rd ea n extend s = .fault (.outOfBounds ea n) := by
  rw [loadTo, State.memRead_error (State.inBounds_eq_false_iff.mpr hout)]
  rfl

/-- It is enough that `f` agrees with the model's widening on what `n` bytes can hold. -/
theorem loadsReg_of_exec_eq_loadTo {mk : RegIdx → RegIdx → Word → Instr} {n : Nat}
    {extend f : Nat → Word}
    (hexec : ∀ rd rs1 imm s, exec (mk rd rs1 imm) s = loadTo rd (s.readReg rs1 + imm) n extend s)
    (hvalue : ∀ v < 2 ^ (8 * n), extend v = f v) : LoadsReg mk n f := by
  intro rd rs1 imm s
  rw [hexec]
  constructor
  · intro hin
    rw [← hvalue _ (memValue_lt s _ n)]
    exact ⟨_, loadTo_of_inBounds rd extend hin, writesOnlyReg_writeReg_advance s rd _⟩
  · intro hout
    exact loadTo_of_not_inBounds rd extend hout

theorem loadsReg_signed {mk : RegIdx → RegIdx → Word → Instr} {n : Nat} (hn : 8 * n ≤ 64)
    (hexec : ∀ rd rs1 imm s, exec (mk rd rs1 imm) s =
      loadTo rd (s.readReg rs1 + imm) n (loadedSigned (8 * n)) s) :
    LoadsReg mk n (fun v => BitVec.ofInt 64 (Int.bmod v (2 ^ (8 * n)))) :=
  loadsReg_of_exec_eq_loadTo hexec fun v _ => loadedSigned_eq_ofInt_bmod hn v

theorem loadsReg_unsigned {mk : RegIdx → RegIdx → Word → Instr} {n : Nat} (hn : 8 * n ≤ 64)
    (hexec : ∀ rd rs1 imm s, exec (mk rd rs1 imm) s =
      loadTo rd (s.readReg rs1 + imm) n (loadedUnsigned (8 * n)) s) :
    LoadsReg mk n (fun v => BitVec.ofNat 64 v) :=
  loadsReg_of_exec_eq_loadTo hexec fun _ hv => loadedUnsigned_eq_ofNat hn hv

/-! ### The encoding (R161 to R167) -/

theorem decodesExactly_load {f3 : BitVec 3} {bits : InstrWord} {build : InstrWord → Instr}
    (hbits : iWord 0 0 f3 0 0x03 = bits) (hrow : ∀ w, (build w).rowBits = ⟨0x0000707F, bits⟩)
    (hload : ∀ w, funct3Of w = f3 → decodeLoad w = .ok (build w)) :
    DecodesExactly 0x0000707F bits build :=
  decodesExactly_of_funct3 hbits hrow fun w hop h3 =>
    (decode_of_opcode_load hop).trans (hload w h3)

/-! ### The obligations -/

/-- Settles O35: each row by its `funct3`, each effect by the sign extension of `8n` bits. -/
theorem signedLoads : Obligations.SignedLoads := by
  refine ⟨decodesExactly_load (f3 := 0) rfl (fun _ => rfl) ?_, ?lb,
    decodesExactly_load (f3 := 1) rfl (fun _ => rfl) ?_, ?lh,
    decodesExactly_load (f3 := 2) rfl (fun _ => rfl) ?_, ?lw⟩
  case lb | lh | lw => exact loadsReg_signed (by decide) fun _ _ _ _ => rfl
  all_goals
    intro w h3
    rw [decodeLoad, h3]
    rfl

/-- Settles O36: as O35, with the zero extension, which leaves the 64 bits of LD as they are. -/
theorem doubleAndUnsignedLoads : Obligations.DoubleAndUnsignedLoads := by
  refine ⟨decodesExactly_load (f3 := 3) rfl (fun _ => rfl) ?_, ?ld,
    decodesExactly_load (f3 := 4) rfl (fun _ => rfl) ?_, ?lbu,
    decodesExactly_load (f3 := 5) rfl (fun _ => rfl) ?_, ?lhu,
    decodesExactly_load (f3 := 6) rfl (fun _ => rfl) ?_, ?lwu⟩
  case ld | lbu | lhu | lwu => exact loadsReg_unsigned (by decide) fun _ _ _ _ => rfl
  all_goals
    intro w h3
    rw [decodeLoad, h3]
    rfl

end Sys2Proof.Machine
end

