-- ==== Sys2Proof/Proofs/IntegerRegister.lean ====
section
/-!
PROOFS. The fifteen register-register instructions (spec/42_integer_register.md R180 to R195): the
values they compute as integer arithmetic on the readings of the operands, the whole effect of an
instruction that never fails, and the words of opcodes `0x33` and `0x3B`.
-/

namespace Sys2Proof

/-! ### Bit-vector arithmetic as integer arithmetic (00_scope.md R11), at every width -/

theorem bitVec_sub_eq_ofInt {n : Nat} (a b : BitVec n) :
    a - b = BitVec.ofInt n ((a.toNat : Int) - b.toNat) := by
  rw [Int.sub_eq_add_neg, BitVec.ofInt_add, BitVec.ofInt_neg, BitVec.ofInt_natCast,
    BitVec.ofInt_natCast, BitVec.ofNat_toNat, BitVec.ofNat_toNat, BitVec.setWidth_eq,
    BitVec.setWidth_eq, BitVec.sub_eq_add_neg]

theorem bitVec_xor_eq_ofNat {n : Nat} (a b : BitVec n) :
    a ^^^ b = BitVec.ofNat n (a.toNat ^^^ b.toNat) := by
  rw [← BitVec.toNat_xor, BitVec.ofNat_toNat, BitVec.setWidth_eq]

theorem bitVec_or_eq_ofNat {n : Nat} (a b : BitVec n) :
    a ||| b = BitVec.ofNat n (a.toNat ||| b.toNat) := by
  rw [← BitVec.toNat_or, BitVec.ofNat_toNat, BitVec.setWidth_eq]

theorem bitVec_and_eq_ofNat {n : Nat} (a b : BitVec n) :
    a &&& b = BitVec.ofNat n (a.toNat &&& b.toNat) := by
  rw [← BitVec.toNat_and, BitVec.ofNat_toNat, BitVec.setWidth_eq]

theorem bitVec_shiftLeft_eq_ofNat {n : Nat} (v : BitVec n) (k : Nat) :
    v <<< k = BitVec.ofNat n (v.toNat * 2 ^ k) := by
  apply BitVec.eq_of_toNat_eq
  rw [BitVec.toNat_shiftLeft, Nat.shiftLeft_eq, BitVec.toNat_ofNat]

theorem bitVec_ushiftRight_eq_ofNat {n : Nat} (v : BitVec n) (k : Nat) :
    v >>> k = BitVec.ofNat n (v.toNat / 2 ^ k) := by
  rw [← Nat.shiftRight_eq_div_pow, ← BitVec.toNat_ushiftRight, BitVec.ofNat_toNat,
    BitVec.setWidth_eq]

/-- `Int` division by a positive number is the floor, which is what R188 and R195 ask for. -/
theorem toInt_sshiftRight_eq_div {n : Nat} (v : BitVec n) (k : Nat) :
    (v.sshiftRight k).toInt = v.toInt / 2 ^ k := by
  rw [BitVec.toInt_sshiftRight, Int.shiftRight_eq_div_pow, Int.natCast_pow, Nat.cast_ofNat]

/-! ### The low half and its sign extension (R12; 42_integer_register.md section 2) -/

theorem sext_eq_ofInt_toInt {n : Nat} (hn : n ≤ 64) (v : BitVec n) :
    sext v = BitVec.ofInt 64 v.toInt := by
  rw [← toInt_sext hn v, BitVec.ofInt_toInt]

theorem sext_ofInt {n : Nat} (hn : n ≤ 64) (i : Int) :
    sext (BitVec.ofInt n i) = BitVec.ofInt 64 (Int.bmod i (2 ^ n)) := by
  rw [sext_eq_ofInt_toInt hn, BitVec.toInt_ofInt]

theorem toNat_lowHalf (v : Word) : (lowHalf v).toNat = v.toNat % 2 ^ 32 :=
  BitVec.extractLsb'_toNat 0 32 v

theorem toInt_lowHalf (v : Word) : (lowHalf v).toInt = Int.bmod v.toNat (2 ^ 32) := by
  rw [BitVec.toInt_eq_toNat_bmod, toNat_lowHalf, Int.natCast_emod]
  exact Int.emod_bmod _ (2 ^ 32)

/-- Reduction modulo `2^64` before the reduction modulo `2^32` does not show. -/
theorem lowHalf_ofInt (i : Int) : lowHalf (BitVec.ofInt 64 i) = BitVec.ofInt 32 i := by
  have hdvd : 2 ^ 32 ∣ 2 ^ 64 := pow_dvd_pow 2 (by decide)
  apply BitVec.eq_of_toInt_eq
  rw [toInt_lowHalf, ← Int.bmod_bmod_of_dvd hdvd, ← BitVec.toInt_eq_toNat_bmod,
    BitVec.toInt_ofInt, Int.bmod_bmod_of_dvd hdvd, BitVec.toInt_ofInt]

end Sys2Proof

namespace Sys2Proof.Machine

/-! ### The values of the shared operations (R11, R191 to R195) -/

theorem shiftLeft_eq_ofNat (v : Word) (n : Nat) :
    shiftLeft v n = BitVec.ofNat 64 (v.toNat * 2 ^ n) :=
  bitVec_shiftLeft_eq_ofNat v n

theorem shiftRightLogical_eq_ofNat (v : Word) (n : Nat) :
    shiftRightLogical v n = BitVec.ofNat 64 (v.toNat / 2 ^ n) :=
  bitVec_ushiftRight_eq_ofNat v n

theorem shiftRightArith_eq_ofInt (v : Word) (n : Nat) :
    shiftRightArith v n = BitVec.ofInt 64 (v.toInt / 2 ^ n) := by
  rw [shiftRightArith, ← toInt_sshiftRight_eq_div, BitVec.ofInt_toInt]

theorem addW_eq_ofInt (a b : Word) :
    addW a b = BitVec.ofInt 64 (Int.bmod (a.toNat + b.toNat : Nat) (2 ^ 32)) := by
  rw [addW, BitVec.add_def, ← BitVec.ofInt_natCast, lowHalf_ofInt, sext_ofInt (by decide)]

theorem subW_eq_ofInt (a b : Word) :
    subW a b = BitVec.ofInt 64 (Int.bmod ((a.toNat : Int) - b.toNat) (2 ^ 32)) := by
  rw [subW, bitVec_sub_eq_ofInt, lowHalf_ofInt, sext_ofInt (by decide)]

/-- The bits that `lowHalf` drops are multiples of `2^32`, and so they stay when shifted left. -/
theorem shiftLeftW_eq_ofInt (v : Word) (n : Nat) :
    shiftLeftW v n = BitVec.ofInt 64 (Int.bmod (v.toNat * 2 ^ n : Nat) (2 ^ 32)) := by
  have hlow : lowHalf v <<< n = BitVec.ofNat 32 (v.toNat * 2 ^ n) := by
    apply BitVec.eq_of_toNat_eq
    rw [bitVec_shiftLeft_eq_ofNat, toNat_lowHalf, BitVec.toNat_ofNat, BitVec.toNat_ofNat,
      Nat.mod_mul_mod]
  rw [shiftLeftW, hlow, ← BitVec.ofInt_natCast, sext_ofInt (by decide)]

theorem shiftRightLogicalW_eq_ofInt (v : Word) (n : Nat) :
    shiftRightLogicalW v n =
      BitVec.ofInt 64 (Int.bmod (v.toNat % 2 ^ 32 / 2 ^ n : Nat) (2 ^ 32)) := by
  rw [shiftRightLogicalW, bitVec_ushiftRight_eq_ofNat, toNat_lowHalf, ← BitVec.ofInt_natCast,
    sext_ofInt (by decide)]

theorem shiftRightArithW_eq_ofInt (v : Word) (n : Nat) :
    shiftRightArithW v n = BitVec.ofInt 64 (Int.bmod v.toNat (2 ^ 32) / 2 ^ n) := by
  rw [shiftRightArithW, sext_eq_ofInt_toInt (by decide), toInt_sshiftRight_eq_div, toInt_lowHalf]

theorem boolWord_lessSigned (a b : Word) :
    boolWord (lessSigned a b) = if a.toInt < b.toInt then 1 else 0 := by
  simp only [boolWord, lessSigned_iff]

theorem boolWord_lessUnsigned (a b : Word) :
    boolWord (lessUnsigned a b) = if a.toNat < b.toNat then 1 else 0 := by
  simp only [boolWord, lessUnsigned_iff]

/-! ### The shift amounts (30_encoding.md R104) -/

theorem shiftAmount_eq_mod (rs2 : RegIdx) (s : State) :
    shiftAmount rs2 s = (s.readReg rs2).toNat % 64 :=
  BitVec.extractLsb'_toNat 0 6 (s.readReg rs2)

theorem shiftAmountW_eq_mod (rs2 : RegIdx) (s : State) :
    shiftAmountW rs2 s = (s.readReg rs2).toNat % 32 :=
  BitVec.extractLsb'_toNat 0 5 (s.readReg rs2)

/-! ### The effect of a register-register instruction (R180) -/

/-- An instruction that retires through `retireReg` completes and writes only its destination; what
is left is that it computes `f`. -/
theorem computesReg_of_exec_eq_retireReg {mk : RegIdx → RegIdx → RegIdx → Instr}
    {compute f : Word → Word → Word}
    (hexec : ∀ rd rs1 rs2 s, exec (mk rd rs1 rs2) s =
      retireReg rd (compute (s.readReg rs1) (s.readReg rs2)) s)
    (hvalue : ∀ a b, compute a b = f a b) : ComputesReg mk f := by
  intro rd rs1 rs2 s
  rw [← hvalue]
  exact ⟨_, hexec rd rs1 rs2 s, writesOnlyReg_writeReg_advance s rd _⟩

/-- The same for a shift, whose amount is the low bits of `x[rs2]`: 6 of them, or 5. -/
theorem computesReg_shift {mk : RegIdx → RegIdx → RegIdx → Instr} {amount : RegIdx → State → Nat}
    {m : Nat} {shift : Word → Nat → Word} {f : Word → Word → Word}
    (hexec : ∀ rd rs1 rs2 s, exec (mk rd rs1 rs2) s =
      retireReg rd (shift (s.readReg rs1) (amount rs2 s)) s)
    (hamount : ∀ rs2 s, amount rs2 s = (s.readReg rs2).toNat % m)
    (hvalue : ∀ a b, shift a (b.toNat % m) = f a b) : ComputesReg mk f :=
  computesReg_of_exec_eq_retireReg (compute := fun a b => shift a (b.toNat % m))
    (fun rd rs1 rs2 s => by rw [hexec, hamount]) hvalue

/-! ### The encodings (R181 to R195; 30_encoding.md R110 rows 8 to 22) -/

/-- As `decodesExactly_of_funct3`, for the rows that `funct7` selects too. -/
theorem decodesExactly_of_funct7 (op : BitVec 7) (f3 : BitVec 3) (f7 : BitVec 7)
    {bits : InstrWord} {build : InstrWord → Instr} (hbits : rWord f7 0 0 f3 0 op = bits)
    (hrow : ∀ w, (build w).rowBits = ⟨0xFE00707F, bits⟩)
    (hdecode : ∀ w, opcodeOf w = op → funct3Of w = f3 → funct7Of w = f7 →
      decode w = .ok (build w)) :
    DecodesExactly 0xFE00707F bits build := by
  intro w
  constructor
  · intro h
    have hmatch := rowBits_of_decode h
    rwa [hrow] at hmatch
  · intro hmatch
    rw [← hbits] at hmatch
    obtain ⟨hop, h3, h7⟩ := and_funct7Mask_eq_iff.mp hmatch
    exact hdecode w hop h3 h7

theorem decode_of_opBase {w : InstrWord} (hop : opcodeOf w = 0x33) (h7 : funct7Of w = 0x00) :
    decode w = decodeOpBase w := by
  rw [decode_of_opcode_op hop, decodeOp, h7]
  rfl

theorem decode_of_opAlt {w : InstrWord} (hop : opcodeOf w = 0x33) (h7 : funct7Of w = 0x20) :
    decode w = decodeOpAlt w := by
  rw [decode_of_opcode_op hop, decodeOp, h7]
  rfl

/-! ### The obligations -/

/-- Settles O40: each row by its two function codes; the difference of two words is that of their
unsigned readings, modulo `2^64`. -/
theorem addAndSubtract : Obligations.AddAndSubtract := by
  refine ⟨decodesExactly_of_funct7 0x33 0 0x00 rfl (fun _ => rfl) ?addRow, ?add,
    decodesExactly_of_funct7 0x33 0 0x20 rfl (fun _ => rfl) ?subRow, ?sub⟩
  case add => exact computesReg_of_exec_eq_retireReg (fun _ _ _ _ => rfl) BitVec.add_def
  case sub => exact computesReg_of_exec_eq_retireReg (fun _ _ _ _ => rfl) bitVec_sub_eq_ofInt
  case addRow =>
    intro w hop h3 h7
    rw [decode_of_opBase hop h7, decodeOpBase, h3]
    rfl
  case subRow =>
    intro w hop h3 h7
    rw [decode_of_opAlt hop h7, decodeOpAlt, h3]
    rfl

/-- Settles O41: the bitwise operation of two words is that of their unsigned readings. -/
theorem logicalOnRegisters : Obligations.LogicalOnRegisters := by
  refine ⟨decodesExactly_of_funct7 0x33 4 0x00 rfl (fun _ => rfl) ?_, ?xor,
    decodesExactly_of_funct7 0x33 6 0x00 rfl (fun _ => rfl) ?_, ?or,
    decodesExactly_of_funct7 0x33 7 0x00 rfl (fun _ => rfl) ?_, ?and⟩
  case xor => exact computesReg_of_exec_eq_retireReg (fun _ _ _ _ => rfl) bitVec_xor_eq_ofNat
  case or => exact computesReg_of_exec_eq_retireReg (fun _ _ _ _ => rfl) bitVec_or_eq_ofNat
  case and => exact computesReg_of_exec_eq_retireReg (fun _ _ _ _ => rfl) bitVec_and_eq_ofNat
  all_goals
    intro w hop h3 h7
    rw [decode_of_opBase hop h7, decodeOpBase, h3]
    rfl

/-- Settles O42: the amount is the low 6 bits of `x[rs2]`; a shift multiplies, or divides and
rounds down, by `2^n`, on the reading that the rule names. -/
theorem shiftsByRegister : Obligations.ShiftsByRegister := by
  refine ⟨decodesExactly_of_funct7 0x33 1 0x00 rfl (fun _ => rfl) ?sllRow, ?sll,
    decodesExactly_of_funct7 0x33 5 0x00 rfl (fun _ => rfl) ?srlRow, ?srl,
    decodesExactly_of_funct7 0x33 5 0x20 rfl (fun _ => rfl) ?sraRow, ?sra⟩
  case sll =>
    exact computesReg_shift (fun _ _ _ _ => rfl) shiftAmount_eq_mod fun a _ =>
      shiftLeft_eq_ofNat a _
  case srl =>
    exact computesReg_shift (fun _ _ _ _ => rfl) shiftAmount_eq_mod fun a _ =>
      shiftRightLogical_eq_ofNat a _
  case sra =>
    exact computesReg_shift (fun _ _ _ _ => rfl) shiftAmount_eq_mod fun a _ =>
      shiftRightArith_eq_ofInt a _
  case sllRow | srlRow =>
    intro w hop h3 h7
    rw [decode_of_opBase hop h7, decodeOpBase, h3]
    rfl
  case sraRow =>
    intro w hop h3 h7
    rw [decode_of_opAlt hop h7, decodeOpAlt, h3]
    rfl

/-- Settles O43: the comparisons are those of the two readings. -/
theorem setLessOnRegisters : Obligations.SetLessOnRegisters := by
  refine ⟨decodesExactly_of_funct7 0x33 2 0x00 rfl (fun _ => rfl) ?_, ?slt,
    decodesExactly_of_funct7 0x33 3 0x00 rfl (fun _ => rfl) ?_, ?sltu⟩
  case slt => exact computesReg_of_exec_eq_retireReg (fun _ _ _ _ => rfl) boolWord_lessSigned
  case sltu => exact computesReg_of_exec_eq_retireReg (fun _ _ _ _ => rfl) boolWord_lessUnsigned
  all_goals
    intro w hop h3 h7
    rw [decode_of_opBase hop h7, decodeOpBase, h3]
    rfl

/-- Settles O44: the reduction modulo `2^64` before the low half is taken does not show in it. -/
theorem addAndSubtractWords : Obligations.AddAndSubtractWords := by
  refine ⟨decodesExactly_of_funct7 0x3B 0 0x00 rfl (fun _ => rfl) ?_, ?addw,
    decodesExactly_of_funct7 0x3B 0 0x20 rfl (fun _ => rfl) ?_, ?subw⟩
  case addw => exact computesReg_of_exec_eq_retireReg (fun _ _ _ _ => rfl) addW_eq_ofInt
  case subw => exact computesReg_of_exec_eq_retireReg (fun _ _ _ _ => rfl) subW_eq_ofInt
  all_goals
    intro w hop h3 h7
    rw [decode_of_opcode_op32 hop, decodeOp32, h7, h3]
    rfl

/-- Settles O45: the amount is the low 5 bits of `x[rs2]`; the shifts are those of the low half,
whose signed reading is the balanced remainder modulo `2^32`. -/
theorem shiftsOfWordsByRegister : Obligations.ShiftsOfWordsByRegister := by
  refine ⟨decodesExactly_of_funct7 0x3B 1 0x00 rfl (fun _ => rfl) ?_, ?sllw,
    decodesExactly_of_funct7 0x3B 5 0x00 rfl (fun _ => rfl) ?_, ?srlw,
    decodesExactly_of_funct7 0x3B 5 0x20 rfl (fun _ => rfl) ?_, ?sraw⟩
  case sllw =>
    exact computesReg_shift (fun _ _ _ _ => rfl) shiftAmountW_eq_mod fun a _ =>
      shiftLeftW_eq_ofInt a _
  case srlw =>
    exact computesReg_shift (fun _ _ _ _ => rfl) shiftAmountW_eq_mod fun a _ =>
      shiftRightLogicalW_eq_ofInt a _
  case sraw =>
    exact computesReg_shift (fun _ _ _ _ => rfl) shiftAmountW_eq_mod fun a _ =>
      shiftRightArithW_eq_ofInt a _
  all_goals
    intro w hop h3 h7
    rw [decode_of_opcode_op32 hop, decodeOp32, h7, h3]
    rfl

end Sys2Proof.Machine
end

