-- ==== Sys2Proof/Proofs/IntegerImmediate.lean ====
section
/-!
PROOFS. The thirteen register-immediate instructions (spec/43_integer_immediate.md R210 to R223):
sums with a signed immediate, the shift amounts and the bit above them in the I-immediate, the whole
effect of an instruction that never fails, and the words of opcodes `0x13` and `0x1B`.
-/

namespace Sys2Proof

/-! ### A sum with a signed immediate (00_scope.md R11) -/

/-- Modulo `2^n` one operand may be read as unsigned and the other as signed. -/
theorem bitVec_add_eq_ofInt {n : Nat} (a b : BitVec n) :
    a + b = BitVec.ofInt n ((a.toNat : Int) + b.toInt) := by
  rw [BitVec.ofInt_add, BitVec.ofInt_natCast, BitVec.ofNat_toNat, BitVec.setWidth_eq,
    BitVec.ofInt_toInt]

/-! ### The I-immediate of a shift's word (30_encoding.md R99, R104; R219) -/

theorem getLsbD_immIOf (w : InstrWord) {i : Nat} (hi : i < 12) :
    (immIOf w).getLsbD i = w.getLsbD (20 + i) := by
  have hi64 : i < 64 := by omega
  simp only [immIOf, sext, BitVec.getLsbD_signExtend, BitVec.getLsbD_extractLsb', hi, hi64,
    decide_true, Bool.true_and, if_true]

theorem getLsbD_funct6Of (w : InstrWord) {i : Nat} (hi : i < 6) :
    (funct6Of w).getLsbD i = w.getLsbD (26 + i) := by
  simp only [funct6Of, BitVec.getLsbD_extractLsb', hi, decide_true, Bool.true_and]

/-- `immI[10]` and `word[31:26]`'s bit 4 are both `word[30]`. -/
theorem getLsbD_immIOf_ten (w : InstrWord) :
    (immIOf w).getLsbD 10 = (funct6Of w).getLsbD 4 :=
  (getLsbD_immIOf w (i := 10) (by decide)).trans (getLsbD_funct6Of w (i := 4) (by decide)).symm

/-- `immI[5:0]` is `word[25:20]`. -/
theorem extractLsb'_immIOf_eq_shamt6Of (w : InstrWord) :
    (immIOf w).extractLsb' 0 6 = shamt6Of w := by
  refine BitVec.eq_of_getLsbD_eq fun i hi => ?_
  have hi12 : i < 12 := by omega
  simp only [shamt6Of, BitVec.getLsbD_extractLsb', Nat.zero_add, getLsbD_immIOf w hi12]

end Sys2Proof

namespace Sys2Proof.Machine

theorem addW_eq_ofInt_toInt (a b : Word) :
    addW a b = BitVec.ofInt 64 (Int.bmod ((a.toNat : Int) + b.toInt) (2 ^ 32)) := by
  rw [addW, bitVec_add_eq_ofInt, lowHalf_ofInt, sext_ofInt (by decide)]

/-! ### The effect of a register-immediate instruction (R210) -/

/-- As `computesReg_of_exec_eq_retireReg`, with an immediate for the second operand. -/
theorem computesImm_of_exec_eq_retireReg {mk : RegIdx → RegIdx → Word → Instr}
    {compute f : Word → Word → Word}
    (hexec : ∀ rd rs1 imm s, exec (mk rd rs1 imm) s =
      retireReg rd (compute (s.readReg rs1) imm) s)
    (hvalue : ∀ a imm, compute a imm = f a imm) : ComputesImm mk f := by
  intro rd rs1 imm s
  rw [← hvalue]
  exact ⟨_, hexec rd rs1 imm s, writesOnlyReg_writeReg_advance s rd _⟩

/-- The same for a shift, whose amount has 6 bits, or 5. -/
theorem computesShift_of_exec_eq_retireReg {n : Nat} {mk : RegIdx → RegIdx → BitVec n → Instr}
    {shift f : Word → Nat → Word}
    (hexec : ∀ rd rs1 shamt s, exec (mk rd rs1 shamt) s =
      retireReg rd (shift (s.readReg rs1) shamt.toNat) s)
    (hvalue : ∀ a k, shift a k = f a k) : ComputesShift mk f := by
  intro rd rs1 shamt s
  rw [← hvalue]
  exact ⟨_, hexec rd rs1 shamt s, writesOnlyReg_writeReg_advance s rd _⟩

/-! ### The encodings (R211 to R223; 30_encoding.md R110 rows 23 to 35) -/

/-- The rows of opcode `0x13` that `funct3` alone selects. -/
theorem decodesExactly_opImm {f3 : BitVec 3} {bits : InstrWord} {build : InstrWord → Instr}
    (hbits : iWord 0 0 f3 0 0x13 = bits) (hrow : ∀ w, (build w).rowBits = ⟨0x0000707F, bits⟩)
    (hopImm : ∀ w, funct3Of w = f3 → decodeOpImm w = .ok (build w)) :
    DecodesExactly 0x0000707F bits build :=
  decodesExactly_of_funct3 hbits hrow fun w hop h3 =>
    (decode_of_opcode_opImm hop).trans (hopImm w h3)

/-- As `decodesExactly_of_funct7`, for the rows that `word[31:26]` selects. -/
theorem decodesExactly_of_funct6 (op : BitVec 7) (f3 : BitVec 3) (f6 : BitVec 6)
    {bits : InstrWord} {build : InstrWord → Instr} (hbits : shiftWord f6 0 0 f3 0 op = bits)
    (hrow : ∀ w, (build w).rowBits = ⟨0xFC00707F, bits⟩)
    (hdecode : ∀ w, opcodeOf w = op → funct3Of w = f3 → funct6Of w = f6 →
      decode w = .ok (build w)) :
    DecodesExactly 0xFC00707F bits build := by
  intro w
  constructor
  · intro h
    have hmatch := rowBits_of_decode h
    rwa [hrow] at hmatch
  · intro hmatch
    rw [← hbits] at hmatch
    obtain ⟨hop, h3, h6⟩ := and_funct6Mask_eq_iff.mp hmatch
    exact hdecode w hop h3 h6

section

variable {w : InstrWord}

theorem decode_of_shiftLeftImm (hop : opcodeOf w = 0x13) (h3 : funct3Of w = 1) :
    decode w = decodeShiftLeftImm w := by
  rw [decode_of_opcode_opImm hop, decodeOpImm, h3]
  rfl

theorem decode_of_shiftRightImm (hop : opcodeOf w = 0x13) (h3 : funct3Of w = 5) :
    decode w = decodeShiftRightImm w := by
  rw [decode_of_opcode_opImm hop, decodeOpImm, h3]
  rfl

/-- R217: `word[25]` is the top bit of the amount, and the bits above it must be zero. -/
theorem decode_of_slli_other_funct6 (hop : opcodeOf w = 0x13) (h3 : funct3Of w = 1)
    (h6 : funct6Of w ≠ 0) : decode w = .error (.unsupportedFunct 0x13 1 (funct7Of w)) := by
  have hcodes : (funct3Of w).toNat = 1 ∧ (funct6Of w).toNat ≠ 0 :=
    ⟨by rw [h3]; rfl, fun h => h6 (BitVec.eq_of_toNat_eq h)⟩
  rw [decode_of_opcode_opImm hop, decodeOpImm_of_other_codes (.inl hcodes), unsupportedFunctOf,
    hop, h3]

/-- R221: here `word[25]` belongs to `funct7`, and so it must be zero too. -/
theorem decode_of_slliw_other_funct7 (hop : opcodeOf w = 0x1B) (h3 : funct3Of w = 1)
    (h7 : funct7Of w ≠ 0) : decode w = .error (.unsupportedFunct 0x1B 1 (funct7Of w)) := by
  have hcodes : (funct3Of w).toNat = 1 ∧ (funct7Of w).toNat ≠ 0 :=
    ⟨by rw [h3]; rfl, fun h => h7 (BitVec.eq_of_toNat_eq h)⟩
  rw [decode_of_opcode_opImm32 hop, decodeOpImm32_of_other_codes (.inr (.inl hcodes)),
    unsupportedFunctOf, hop, h3]

end

/-! ### The obligations -/

/-- Settles O46: the sum modulo `2^64` with the immediate read as signed, and its low half. -/
theorem addImmediate : Obligations.AddImmediate := by
  refine ⟨decodesExactly_opImm (f3 := 0) rfl (fun _ => rfl) ?addiRow, ?addi,
    decodesExactly_of_funct3 (op := 0x1B) (f3 := 0) rfl (fun _ => rfl) ?addiwRow, ?addiw⟩
  case addi => exact computesImm_of_exec_eq_retireReg (fun _ _ _ _ => rfl) bitVec_add_eq_ofInt
  case addiw => exact computesImm_of_exec_eq_retireReg (fun _ _ _ _ => rfl) addW_eq_ofInt_toInt
  case addiRow =>
    intro w h3
    rw [decodeOpImm, h3]
    rfl
  case addiwRow =>
    intro w hop h3
    rw [decode_of_opcode_opImm32 hop, decodeOpImm32, h3]
    rfl

/-- Settles O47: the comparisons are those of the two readings, of the immediate too. -/
theorem setLessImmediate : Obligations.SetLessImmediate := by
  refine ⟨decodesExactly_opImm (f3 := 2) rfl (fun _ => rfl) ?_, ?slti,
    decodesExactly_opImm (f3 := 3) rfl (fun _ => rfl) ?_, ?sltiu⟩
  case slti => exact computesImm_of_exec_eq_retireReg (fun _ _ _ _ => rfl) boolWord_lessSigned
  case sltiu => exact computesImm_of_exec_eq_retireReg (fun _ _ _ _ => rfl) boolWord_lessUnsigned
  all_goals
    intro w h3
    rw [decodeOpImm, h3]
    rfl

/-- Settles O48: the bitwise operation of two words is that of their unsigned readings. -/
theorem logicalImmediate : Obligations.LogicalImmediate := by
  refine ⟨decodesExactly_opImm (f3 := 4) rfl (fun _ => rfl) ?_, ?xori,
    decodesExactly_opImm (f3 := 6) rfl (fun _ => rfl) ?_, ?ori,
    decodesExactly_opImm (f3 := 7) rfl (fun _ => rfl) ?_, ?andi⟩
  case xori => exact computesImm_of_exec_eq_retireReg (fun _ _ _ _ => rfl) bitVec_xor_eq_ofNat
  case ori => exact computesImm_of_exec_eq_retireReg (fun _ _ _ _ => rfl) bitVec_or_eq_ofNat
  case andi => exact computesImm_of_exec_eq_retireReg (fun _ _ _ _ => rfl) bitVec_and_eq_ofNat
  all_goals
    intro w h3
    rw [decodeOpImm, h3]
    rfl

/-- Settles O49: the rows by `word[31:26]`, the shifts as in O42; SRAI's `word[31:26]` is
`0b010000`, whose bit 4 is the immediate's bit 10. -/
theorem shiftsByConstant : Obligations.ShiftsByConstant := by
  refine ⟨decodesExactly_of_funct6 0x13 1 0b000000 rfl (fun _ => rfl) ?slliRow, ?slli,
    decodesExactly_of_funct6 0x13 5 0b000000 rfl (fun _ => rfl) ?srliRow, ?srli,
    decodesExactly_of_funct6 0x13 5 0b010000 rfl (fun _ => rfl) ?sraiRow, ?srai, ?sraiImm,
    fun _ => decode_of_slli_other_funct6⟩
  case slli => exact computesShift_of_exec_eq_retireReg (fun _ _ _ _ => rfl) shiftLeft_eq_ofNat
  case srli =>
    exact computesShift_of_exec_eq_retireReg (fun _ _ _ _ => rfl) shiftRightLogical_eq_ofNat
  case srai =>
    exact computesShift_of_exec_eq_retireReg (fun _ _ _ _ => rfl) shiftRightArith_eq_ofInt
  case slliRow =>
    intro w hop h3 h6
    rw [decode_of_shiftLeftImm hop h3, decodeShiftLeftImm, h6]
    rfl
  case srliRow | sraiRow =>
    intro w hop h3 h6
    rw [decode_of_shiftRightImm hop h3, decodeShiftRightImm, h6]
    rfl
  case sraiImm =>
    intro w hmatch
    have hrow : w &&& 0xFC00707F = shiftWord 0b010000 0 0 5 0 0x13 := hmatch
    obtain ⟨-, -, h6⟩ := and_funct6Mask_eq_iff.mp hrow
    refine ⟨?_, extractLsb'_immIOf_eq_shamt6Of w⟩
    rw [getLsbD_immIOf_ten, h6]
    rfl

/-- Settles O50: the rows by `funct7`, which leaves five bits for the amount, the shifts as in
O45. -/
theorem shiftsOfWordsByConstant : Obligations.ShiftsOfWordsByConstant := by
  refine ⟨decodesExactly_of_funct7 0x1B 1 0x00 rfl (fun _ => rfl) ?_, ?slliw,
    decodesExactly_of_funct7 0x1B 5 0x00 rfl (fun _ => rfl) ?_, ?srliw,
    decodesExactly_of_funct7 0x1B 5 0x20 rfl (fun _ => rfl) ?_, ?sraiw,
    fun _ => decode_of_slliw_other_funct7⟩
  case slliw => exact computesShift_of_exec_eq_retireReg (fun _ _ _ _ => rfl) shiftLeftW_eq_ofInt
  case srliw =>
    exact computesShift_of_exec_eq_retireReg (fun _ _ _ _ => rfl) shiftRightLogicalW_eq_ofInt
  case sraiw =>
    exact computesShift_of_exec_eq_retireReg (fun _ _ _ _ => rfl) shiftRightArithW_eq_ofInt
  all_goals
    intro w hop h3 h7
    rw [decode_of_opcode_opImm32 hop, decodeOpImm32, h3, h7]
    rfl

end Sys2Proof.Machine
end

/-!
PROOFS. The four stores (spec/44_stores.md R240 to R244): the whole effect of a store, and the words
of opcode `0x23`.
-/

namespace Sys2Proof.Machine

/-! ### The effect of a store (R240) -/

/-- The premise on the index is that of `memoryAfterStore_of_mem_eq`. -/
theorem storesOnly_setBytes_advance {s : State} {ea : Word} (n : Nat) (v : Word)
    (hindex : 0 ≤ s.index ea) :
    StoresOnly s (State.advance { s with mem := s.mem.setBytes (s.index ea).toNat (leBytes n v) })
      ea n v :=
  ⟨rfl, fun _ => rfl, memoryAfterStore_of_mem_eq hindex rfl, rfl⟩

theorem storeAt_of_inBounds {s : State} {ea : Word} {n : Nat} (v : Word)
    (hin : InBounds s ea n) : ∃ t, storeAt ea n v s = .next t ∧ StoresOnly s t ea n v := by
  obtain ⟨-, hnext⟩ | ⟨hout, -⟩ := storeAt_cases ea n v s
  · obtain ⟨hindex, -⟩ := hin
    exact ⟨_, hnext, storesOnly_setBytes_advance n v hindex⟩
  · exact absurd hin (State.inBounds_eq_false_iff.mp hout)

theorem storeAt_of_not_inBounds {s : State} {ea : Word} {n : Nat} (v : Word)
    (hout : ¬ InBounds s ea n) : storeAt ea n v s = .fault (.outOfBounds ea n) := by
  obtain ⟨hin, -⟩ | ⟨-, hfault⟩ := storeAt_cases ea n v s
  · exact absurd (State.inBounds_eq_true_iff.mp hin) hout
  · exact hfault

theorem storesReg_of_exec_eq_storeAt {mk : RegIdx → RegIdx → Word → Instr} {n : Nat}
    (hexec : ∀ rs1 rs2 imm s, exec (mk rs1 rs2 imm) s =
      storeAt (s.readReg rs1 + imm) n (s.readReg rs2) s) : StoresReg mk n := by
  intro rs1 rs2 imm s
  rw [hexec]
  exact ⟨storeAt_of_inBounds _, storeAt_of_not_inBounds _⟩

/-! ### The encoding (R241 to R244) -/

theorem decodesExactly_store {f3 : BitVec 3} {bits : InstrWord} {build : InstrWord → Instr}
    (hbits : iWord 0 0 f3 0 0x23 = bits) (hrow : ∀ w, (build w).rowBits = ⟨0x0000707F, bits⟩)
    (hstore : ∀ w, funct3Of w = f3 → decodeStore w = .ok (build w)) :
    DecodesExactly 0x0000707F bits build :=
  decodesExactly_of_funct3 hbits hrow fun w hop h3 =>
    (decode_of_opcode_store hop).trans (hstore w h3)

/-! ### The obligation -/

/-- Settles O37: each row by its `funct3`; each effect is that of `storeAt` with the row's width. -/
theorem stores : Obligations.Stores := by
  refine ⟨decodesExactly_store (f3 := 0) rfl (fun _ => rfl) ?_, ?sb,
    decodesExactly_store (f3 := 1) rfl (fun _ => rfl) ?_, ?sh,
    decodesExactly_store (f3 := 2) rfl (fun _ => rfl) ?_, ?sw,
    decodesExactly_store (f3 := 3) rfl (fun _ => rfl) ?_, ?sd⟩
  case sb | sh | sw | sd => exact storesReg_of_exec_eq_storeAt fun _ _ _ _ => rfl
  all_goals
    intro w h3
    rw [decodeStore, h3]
    rfl

end Sys2Proof.Machine

/-!
PROOFS. The six conditional branches (spec/45_branches.md R260 to R266): the whole effect of a
branch, taken or not, and the words of opcode `0x63`.
-/

namespace Sys2Proof.Machine

/-! ### The effect of a branch (R260) -/

theorem movesOnlyPc_setPc (s : State) (target : Word) :
    MovesOnlyPc s (s.setPc target) target :=
  ⟨rfl, fun _ => rfl, fun _ => rfl, rfl⟩

/-- It is enough that the test the model makes decides the condition. -/
theorem branchesWhen_of_exec_eq_branchTo {mk : RegIdx → RegIdx → Word → Instr}
    {test : Word → Word → Bool} {cond : Word → Word → Prop}
    (hexec : ∀ rs1 rs2 imm s, exec (mk rs1 rs2 imm) s =
      branchTo (test (s.readReg rs1) (s.readReg rs2)) (s.pc + imm) s)
    (htest : ∀ a b, test a b = true ↔ cond a b) : BranchesWhen mk cond := by
  intro rs1 rs2 imm s
  rw [hexec, branchTo_cases, ← htest]
  constructor
  · intro htaken
    rw [if_pos htaken]
    exact ⟨_, rfl, movesOnlyPc_setPc s _⟩
  · intro hnot
    rw [if_neg hnot]
    exact ⟨_, rfl, movesOnlyPc_setPc s _⟩

/-! ### The encoding (R261 to R266) -/

theorem decodesExactly_branch {f3 : BitVec 3} {bits : InstrWord} {build : InstrWord → Instr}
    (hbits : iWord 0 0 f3 0 0x63 = bits) (hrow : ∀ w, (build w).rowBits = ⟨0x0000707F, bits⟩)
    (hbranch : ∀ w, funct3Of w = f3 → decodeBranch w = .ok (build w)) :
    DecodesExactly 0x0000707F bits build :=
  decodesExactly_of_funct3 hbits hrow fun w hop h3 =>
    (decode_of_opcode_branch hop).trans (hbranch w h3)

/-! ### The obligations -/

/-- Settles O51: each row by its `funct3`; the tests are equality of words and its negation. -/
theorem branchesOnEquality : Obligations.BranchesOnEquality := by
  refine ⟨decodesExactly_branch (f3 := 0) rfl (fun _ => rfl) ?_, ?beq,
    decodesExactly_branch (f3 := 1) rfl (fun _ => rfl) ?_, ?bne⟩
  case beq => exact branchesWhen_of_exec_eq_branchTo (fun _ _ _ _ => rfl) fun _ _ => beq_iff_eq
  case bne => exact branchesWhen_of_exec_eq_branchTo (fun _ _ _ _ => rfl) fun _ _ => bne_iff_ne
  all_goals
    intro w h3
    rw [decodeBranch, h3]
    rfl

/-- Settles O52: as O51, with the order of the signed readings; BGE is the negation of BLT. -/
theorem branchesOnSignedOrder : Obligations.BranchesOnSignedOrder := by
  refine ⟨decodesExactly_branch (f3 := 4) rfl (fun _ => rfl) ?_, ?blt,
    decodesExactly_branch (f3 := 5) rfl (fun _ => rfl) ?_, ?bge⟩
  case blt =>
    exact branchesWhen_of_exec_eq_branchTo (fun _ _ _ _ => rfl) fun _ _ => lessSigned_iff
  case bge =>
    exact branchesWhen_of_exec_eq_branchTo (fun _ _ _ _ => rfl) fun _ _ => not_lessSigned_iff
  all_goals
    intro w h3
    rw [decodeBranch, h3]
    rfl

/-- Settles O53: as O52, with the order of the unsigned readings. -/
theorem branchesOnUnsignedOrder : Obligations.BranchesOnUnsignedOrder := by
  refine ⟨decodesExactly_branch (f3 := 6) rfl (fun _ => rfl) ?_, ?bltu,
    decodesExactly_branch (f3 := 7) rfl (fun _ => rfl) ?_, ?bgeu⟩
  case bltu =>
    exact branchesWhen_of_exec_eq_branchTo (fun _ _ _ _ => rfl) fun _ _ => lessUnsigned_iff
  case bgeu =>
    exact branchesWhen_of_exec_eq_branchTo (fun _ _ _ _ => rfl) fun _ _ => not_lessUnsigned_iff
  all_goals
    intro w h3
    rw [decodeBranch, h3]
    rfl

end Sys2Proof.Machine

/-!
PROOFS. The two jumps (spec/46_jumps.md R280, R281): the whole effect of a jump, whose target is not
checked (R284), and the words of opcodes `0x6F` and `0x67`.
-/

namespace Sys2Proof

/-! ### Bit 0 cleared (R281), at every width -/

/-- Shifting right by one bit and back drops bit 0. -/
theorem bitVec_shiftRight_shiftLeft_one {n : Nat} (v : BitVec n) :
    v >>> 1 <<< 1 = v &&& ~~~1 := by
  refine BitVec.eq_of_getLsbD_eq fun i hi => ?_
  cases i with
  | zero => simp [hi]
  | succ i => simp [hi, Nat.add_comm 1 i]

theorem bitVec_and_not_one_eq_ofNat {n : Nat} (v : BitVec n) :
    v &&& ~~~1 = BitVec.ofNat n (v.toNat / 2 * 2) := by
  rw [← bitVec_shiftRight_shiftLeft_one, bitVec_shiftLeft_eq_ofNat, BitVec.toNat_ushiftRight,
    Nat.shiftRight_eq_div_pow, pow_one]

end Sys2Proof

namespace Sys2Proof.Machine

/-! ### The effect of a jump (R280, R281) -/

theorem linksAndMovesPc_writeReg_setPc (s : State) (rd : RegIdx) (target : Word) :
    LinksAndMovesPc s ((s.writeReg rd (s.pc + 4)).setPc target) rd target :=
  ⟨rfl, fun r => State.readReg_writeReg s rd r _, fun _ => rfl, rfl⟩

/-- The target is a word computed in `s`, so a link written to `rs1` does not reach it. -/
theorem jumpTo_linksAndMovesPc (s : State) (rd : RegIdx) (target : Word) :
    ∃ t, jumpTo rd target s = .next t ∧ LinksAndMovesPc s t rd target :=
  ⟨_, rfl, linksAndMovesPc_writeReg_setPc s rd target⟩

theorem pcRelative_eq_ofInt (imm : Word) (s : State) :
    pcRelative imm s = BitVec.ofInt 64 ((s.pc.toNat : Int) + imm.toInt) :=
  bitVec_add_eq_ofInt s.pc imm

theorem jalrTarget_eq_ofNat (rs1 : RegIdx) (imm : Word) (s : State) :
    jalrTarget rs1 imm s = BitVec.ofNat 64 ((s.readReg rs1 + imm).toNat / 2 * 2) :=
  bitVec_and_not_one_eq_ofNat (s.readReg rs1 + imm)

/-! ### Rows that the opcode alone selects -/

/-- As `decodesExactly_of_funct3`, for the formats without a function field. -/
theorem decodesExactly_of_opcode {op : BitVec 7} {bits : InstrWord} {build : InstrWord → Instr}
    (hbits : uWord 0 0 op = bits) (hrow : ∀ w, (build w).rowBits = ⟨0x0000007F, bits⟩)
    (hdecode : ∀ w, opcodeOf w = op → decode w = .ok (build w)) :
    DecodesExactly 0x0000007F bits build := by
  intro w
  constructor
  · intro h
    have hmatch := rowBits_of_decode h
    rwa [hrow] at hmatch
  · intro hmatch
    rw [← hbits] at hmatch
    exact hdecode w (and_opcodeMask_eq_iff.mp hmatch)

/-! ### The obligation -/

/-- Settles O54: JAL's row by its opcode, JALR's by its `funct3` too; both are `jumpTo` with their
target. -/
theorem jumpsLinkAndRedirect : Obligations.JumpsLinkAndRedirect := by
  refine ⟨decodesExactly_of_opcode (op := 0x6F) rfl (fun _ => rfl) ?jalRow, ?jal,
    decodesExactly_of_funct3 (op := 0x67) (f3 := 0) rfl (fun _ => rfl) ?jalrRow, ?jalr⟩
  case jal =>
    intro rd imm s
    rw [← pcRelative_eq_ofInt]
    exact jumpTo_linksAndMovesPc s rd _
  case jalr =>
    intro rd rs1 imm s
    rw [← jalrTarget_eq_ofNat]
    exact jumpTo_linksAndMovesPc s rd _
  case jalRow =>
    intro w hop
    rw [decode, hop]
    rfl
  case jalrRow =>
    intro w hop h3
    rw [decode_of_opcode_jalr hop, decodeJalr, h3]
    rfl

end Sys2Proof.Machine

/-!
PROOFS. LUI and AUIPC (spec/47_upper_immediate.md R290, R291): the whole effect of retiring a value
into a register, and the words of opcodes `0x37` and `0x17`.
-/

namespace Sys2Proof.Machine

/-! ### The effect of a retired value -/

theorem retireReg_writesOnlyReg (s : State) (rd : RegIdx) (v : Word) :
    ∃ t, retireReg rd v s = .next t ∧ WritesOnlyReg s t rd v :=
  ⟨_, rfl, writesOnlyReg_writeReg_advance s rd v⟩

/-! ### Execution as a retired value -/

theorem exec_lui_eq_retireReg (rd : RegIdx) (imm : Word) (s : State) :
    exec (.lui rd imm) s = retireReg rd imm s := rfl

/-- The pc is that of the state before the write, the instruction's own address (R291). -/
theorem exec_auipc_eq_retireReg (rd : RegIdx) (imm : Word) (s : State) :
    exec (.auipc rd imm) s =
      retireReg rd (BitVec.ofInt 64 ((s.pc.toNat : Int) + imm.toInt)) s := by
  rw [← pcRelative_eq_ofInt]
  rfl

/-! ### The obligation -/

/-- Settles O55: each row by its opcode alone; both instructions retire one value, which for AUIPC
is the pc-relative sum that JAL takes as its target. -/
theorem upperImmediates : Obligations.UpperImmediates := by
  refine ⟨decodesExactly_of_opcode (op := 0x37) rfl (fun _ => rfl) ?_, ?lui,
    decodesExactly_of_opcode (op := 0x17) rfl (fun _ => rfl) ?_, ?auipc⟩
  case lui =>
    intro rd imm s
    rw [exec_lui_eq_retireReg]
    exact retireReg_writesOnlyReg s rd imm
  case auipc =>
    intro rd imm s
    rw [exec_auipc_eq_retireReg]
    exact retireReg_writesOnlyReg s rd _
  all_goals
    intro w hop
    rw [decode, hop]
    rfl

end Sys2Proof.Machine

/-!
PROOFS. The round trip between the encoder and the decoder (spec/30_encoding.md sections 2 to 5).
From an instruction, the fields of its word select its arm of the decoder and read back as they were
written; from a word, what the decoder reads of it puts the word together again.
-/

namespace Sys2Proof

open Machine

/-! ### The opcodes without a function field (R106) -/

section

variable {w : InstrWord}

theorem decode_of_opcode_lui (hop : opcodeOf w = 0x37) :
    decode w = .ok (.lui (rdOf w) (immUOf w)) := by
  rw [decode, hop]
  rfl

theorem decode_of_opcode_auipc (hop : opcodeOf w = 0x17) :
    decode w = .ok (.auipc (rdOf w) (immUOf w)) := by
  rw [decode, hop]
  rfl

theorem decode_of_opcode_jal (hop : opcodeOf w = 0x6F) :
    decode w = .ok (.jal (rdOf w) (immJOf w)) := by
  rw [decode, hop]
  rfl

end

/-! ### From an instruction to its word and back -/

/-- Settles O11, by the instruction: its opcode selects a part of the decoder, its function codes an
arm there, and the operands read back, an immediate because it fits its format. -/
theorem decodeOfEncode : Obligations.DecodeOfEncode := by
  intro i hwf
  cases i
  case lb | lh | lw | ld | lbu | lhu | lwu =>
    simp [encode, decode_of_opcode_load, decodeLoad, immIOf_iWord _ _ _ _ _ hwf]
  case addi | slti | sltiu | xori | ori | andi =>
    simp [encode, decode_of_opcode_opImm, decodeOpImm, immIOf_iWord _ _ _ _ _ hwf]
  case addiw => simp [encode, decode_of_opcode_opImm32, decodeOpImm32, immIOf_iWord _ _ _ _ _ hwf]
  case jalr => simp [encode, decode_of_opcode_jalr, decodeJalr, immIOf_iWord _ _ _ _ _ hwf]
  case sb | sh | sw | sd =>
    simp [encode, decode_of_opcode_store, decodeStore, immSOf_sWord _ _ _ _ _ hwf]
  case beq | bne | blt | bge | bltu | bgeu =>
    simp [encode, decode_of_opcode_branch, decodeBranch, immBOf_bWord _ _ _ _ _ hwf]
  case add | sll | slt | sltu | xor | srl | or | and =>
    simp [encode, decode_of_opBase, decodeOpBase]
  case sub | sra => simp [encode, decode_of_opAlt, decodeOpAlt]
  case addw | subw | sllw | srlw | sraw => simp [encode, decode_of_opcode_op32, decodeOp32]
  case slliw | srliw | sraiw => simp [encode, decode_of_opcode_opImm32, decodeOpImm32]
  case slli => simp [encode, decode_of_shiftLeftImm, decodeShiftLeftImm]
  case srli | srai => simp [encode, decode_of_shiftRightImm, decodeShiftRightImm]
  case lui => simp [encode, decode_of_opcode_lui, immUOf_uWord _ _ _ hwf]
  case auipc => simp [encode, decode_of_opcode_auipc, immUOf_uWord _ _ _ hwf]
  case jal => simp [encode, decode_of_opcode_jal, immJOf_jWord _ _ _ hwf]
  case fence => simp [encode, decode_of_opcode_miscMem, decodeMiscMem]

/-! ### From a word to its instruction and back

One lemma per part of the decoder. In each arm the hypotheses give the function codes of the word,
so that the encoder's word is the one built of the word's own fields. -/

section

variable {w : InstrWord} {i : Instr}

theorem iWord_eq_of_codes {op : BitVec 7} {f3 : BitVec 3} (hop : opcodeOf w = op)
    (h3 : funct3Of w = f3) : iWord (immIOf w) (rs1Of w) f3 (rdOf w) op = w := by
  rw [← hop, ← h3, iWord_fields]

theorem sWord_eq_of_codes {op : BitVec 7} {f3 : BitVec 3} (hop : opcodeOf w = op)
    (h3 : funct3Of w = f3) : sWord (immSOf w) (rs2Of w) (rs1Of w) f3 op = w := by
  rw [← hop, ← h3, sWord_fields]

theorem bWord_eq_of_codes {op : BitVec 7} {f3 : BitVec 3} (hop : opcodeOf w = op)
    (h3 : funct3Of w = f3) : bWord (immBOf w) (rs2Of w) (rs1Of w) f3 op = w := by
  rw [← hop, ← h3, bWord_fields]

theorem rWord_eq_of_codes {op f7 : BitVec 7} {f3 : BitVec 3} (hop : opcodeOf w = op)
    (h3 : funct3Of w = f3) (h7 : funct7Of w = f7) :
    rWord f7 (rs2Of w) (rs1Of w) f3 (rdOf w) op = w := by
  rw [← hop, ← h3, ← h7, rWord_fields]

theorem shiftWord_eq_of_codes {op : BitVec 7} {f3 : BitVec 3} {f6 : BitVec 6}
    (hop : opcodeOf w = op) (h3 : funct3Of w = f3) (h6 : funct6Of w = f6) :
    shiftWord f6 (shamt6Of w) (rs1Of w) f3 (rdOf w) op = w := by
  rw [← hop, ← h3, ← h6, shiftWord_fields]

theorem encode_of_decodeLoad (hop : opcodeOf w = 0x03) (h : decodeLoad w = .ok i) :
    i.wf = true ∧ encode i = w := by
  unfold decodeLoad at h
  split at h <;> cases h
  all_goals next h3 => exact ⟨immFits12_immIOf w, iWord_eq_of_codes hop h3⟩

theorem encode_of_decodeMiscMem (hop : opcodeOf w = 0x0F) (h : decodeMiscMem w = .ok i) :
    i.wf = true ∧ encode i = w := by
  unfold decodeMiscMem at h
  split at h <;> cases h
  next h3 => exact ⟨rfl, fenceWord_fields w h3 hop⟩

theorem encode_of_decodeShiftLeftImm (hop : opcodeOf w = 0x13) (h3 : funct3Of w = 1)
    (h : decodeShiftLeftImm w = .ok i) : i.wf = true ∧ encode i = w := by
  unfold decodeShiftLeftImm at h
  split at h <;> cases h
  next h6 => exact ⟨rfl, shiftWord_eq_of_codes hop h3 h6⟩

theorem encode_of_decodeShiftRightImm (hop : opcodeOf w = 0x13) (h3 : funct3Of w = 5)
    (h : decodeShiftRightImm w = .ok i) : i.wf = true ∧ encode i = w := by
  unfold decodeShiftRightImm at h
  split at h <;> cases h
  all_goals next h6 => exact ⟨rfl, shiftWord_eq_of_codes hop h3 h6⟩

theorem encode_of_decodeOpImm (hop : opcodeOf w = 0x13) (h : decodeOpImm w = .ok i) :
    i.wf = true ∧ encode i = w := by
  unfold decodeOpImm at h
  split at h
  case h_2 h3 => exact encode_of_decodeShiftLeftImm hop h3 h
  case h_6 h3 => exact encode_of_decodeShiftRightImm hop h3 h
  all_goals cases h
  all_goals next h3 => exact ⟨immFits12_immIOf w, iWord_eq_of_codes hop h3⟩

theorem encode_of_decodeOpImm32 (hop : opcodeOf w = 0x1B) (h : decodeOpImm32 w = .ok i) :
    i.wf = true ∧ encode i = w := by
  unfold decodeOpImm32 at h
  split at h
  next h3 =>
    cases h
    exact ⟨immFits12_immIOf w, iWord_eq_of_codes hop h3⟩
  next h3 =>
    split at h <;> cases h
    next h7 => exact ⟨rfl, rWord_eq_of_codes hop h3 h7⟩
  next h3 =>
    split at h <;> cases h
    all_goals next h7 => exact ⟨rfl, rWord_eq_of_codes hop h3 h7⟩
  next => cases h

theorem encode_of_decodeStore (hop : opcodeOf w = 0x23) (h : decodeStore w = .ok i) :
    i.wf = true ∧ encode i = w := by
  unfold decodeStore at h
  split at h <;> cases h
  all_goals next h3 => exact ⟨immFits12_immSOf w, sWord_eq_of_codes hop h3⟩

theorem encode_of_decodeOpBase (hop : opcodeOf w = 0x33) (h7 : funct7Of w = 0x00)
    (h : decodeOpBase w = .ok i) : i.wf = true ∧ encode i = w := by
  unfold decodeOpBase at h
  split at h <;> cases h
  all_goals next h3 => exact ⟨rfl, rWord_eq_of_codes hop h3 h7⟩

theorem encode_of_decodeOpAlt (hop : opcodeOf w = 0x33) (h7 : funct7Of w = 0x20)
    (h : decodeOpAlt w = .ok i) : i.wf = true ∧ encode i = w := by
  unfold decodeOpAlt at h
  split at h <;> cases h
  all_goals next h3 => exact ⟨rfl, rWord_eq_of_codes hop h3 h7⟩

theorem encode_of_decodeOp (hop : opcodeOf w = 0x33) (h : decodeOp w = .ok i) :
    i.wf = true ∧ encode i = w := by
  unfold decodeOp at h
  split at h
  next h7 => exact encode_of_decodeOpBase hop h7 h
  next h7 => exact encode_of_decodeOpAlt hop h7 h
  next => cases h

theorem encode_of_decodeOp32 (hop : opcodeOf w = 0x3B) (h : decodeOp32 w = .ok i) :
    i.wf = true ∧ encode i = w := by
  unfold decodeOp32 at h
  split at h
  case h_3 => cases h
  all_goals
    next h7 =>
      split at h <;> cases h
      all_goals next h3 => exact ⟨rfl, rWord_eq_of_codes hop h3 h7⟩

theorem encode_of_decodeBranch (hop : opcodeOf w = 0x63) (h : decodeBranch w = .ok i) :
    i.wf = true ∧ encode i = w := by
  unfold decodeBranch at h
  split at h <;> cases h
  all_goals next h3 => exact ⟨immFitsBranch_immBOf w, bWord_eq_of_codes hop h3⟩

theorem encode_of_decodeJalr (hop : opcodeOf w = 0x67) (h : decodeJalr w = .ok i) :
    i.wf = true ∧ encode i = w := by
  unfold decodeJalr at h
  split at h <;> cases h
  next h3 => exact ⟨immFits12_immIOf w, iWord_eq_of_codes hop h3⟩

theorem encode_lui_fields (hop : opcodeOf w = 0x37) : encode (.lui (rdOf w) (immUOf w)) = w := by
  rw [encode, ← hop, uWord_fields]

theorem encode_auipc_fields (hop : opcodeOf w = 0x17) :
    encode (.auipc (rdOf w) (immUOf w)) = w := by
  rw [encode, ← hop, uWord_fields]

theorem encode_jal_fields (hop : opcodeOf w = 0x6F) : encode (.jal (rdOf w) (immJOf w)) = w := by
  rw [encode, ← hop, jWord_fields]

end

/-- Settles O12, by the opcode of the word, as the decoder splits. -/
theorem encodeOfDecode : Obligations.EncodeOfDecode := by
  intro w i h
  unfold decode at h
  split at h
  next hop => exact encode_of_decodeLoad hop h
  next hop => exact encode_of_decodeMiscMem hop h
  next hop => exact encode_of_decodeOpImm hop h
  next hop =>
    cases h
    exact ⟨immFitsUpper_immUOf w, encode_auipc_fields hop⟩
  next hop => exact encode_of_decodeOpImm32 hop h
  next hop => exact encode_of_decodeStore hop h
  next hop => exact encode_of_decodeOp hop h
  next hop =>
    cases h
    exact ⟨immFitsUpper_immUOf w, encode_lui_fields hop⟩
  next hop => exact encode_of_decodeOp32 hop h
  next hop => exact encode_of_decodeBranch hop h
  next hop => exact encode_of_decodeJalr hop h
  next hop =>
    cases h
    exact ⟨immFitsJump_immJOf w, encode_jal_fields hop⟩
  next => cases h

end Sys2Proof

/-!
PROOFS. Which words are instructions (spec/30_encoding.md R106 to R110; 48_fence_system.md R300 to
R303): every word has an unsupported opcode, or unsupported function codes, or decodes, and the
decoder's answer in each case.
-/

namespace Sys2Proof

open Machine

/-! ### The fields as slices (R92) -/

/-- Settles O2: the fields are slices by definition, and a register index has five bits. -/
theorem fieldsStandAtTheirPlaces : Obligations.FieldsStandAtTheirPlaces := by
  intro w
  exact ⟨toNat_slice w 6 0, toNat_slice w 11 7, toNat_slice w 14 12, toNat_slice w 19 15,
    toNat_slice w 24 20, toNat_slice w 31 25, Nat.le_of_lt_succ (rdOf w).isLt,
    Nat.le_of_lt_succ (rs1Of w).isLt, Nat.le_of_lt_succ (rs2Of w).isLt⟩

/-- Settles O6: each word is evaluated by the decoder. -/
theorem specWordsDecode : Obligations.SpecWordsDecode := by
  refine ⟨?lw, ?sub, ?addi, ?sw, ?bltu, ?jal, ?jalr, ?lui, ?fence⟩
  all_goals decide

/-! ### Function codes that no instruction has (R109) -/

section

variable {w : InstrWord}

/-- R109's table, on the fields that the decoder reads. -/
theorem unsupportedFunctWord_iff : UnsupportedFunctWord w ↔
    (opcodeOf w = 0x03 ∧ (funct3Of w).toNat = 7) ∨
    (opcodeOf w = 0x0F ∧ (funct3Of w).toNat ≠ 0) ∨
    (opcodeOf w = 0x13 ∧ (((funct3Of w).toNat = 1 ∧ (funct6Of w).toNat ≠ 0b000000) ∨
      ((funct3Of w).toNat = 5 ∧ (funct6Of w).toNat ∉ [0b000000, 0b010000]))) ∨
    (opcodeOf w = 0x1B ∧ ((funct3Of w).toNat ∈ [2, 3, 4, 6, 7] ∨
      ((funct3Of w).toNat = 1 ∧ (funct7Of w).toNat ≠ 0x00) ∨
      ((funct3Of w).toNat = 5 ∧ (funct7Of w).toNat ∉ [0x00, 0x20]))) ∨
    (opcodeOf w = 0x23 ∧ 4 ≤ (funct3Of w).toNat) ∨
    (opcodeOf w = 0x33 ∧ ((funct3Of w).toNat, (funct7Of w).toNat) ∉ [(0, 0x00), (0, 0x20),
      (1, 0x00), (2, 0x00), (3, 0x00), (4, 0x00), (5, 0x00), (5, 0x20), (6, 0x00), (7, 0x00)]) ∨
    (opcodeOf w = 0x3B ∧ ((funct3Of w).toNat, (funct7Of w).toNat) ∉ [(0, 0x00), (0, 0x20),
      (1, 0x00), (5, 0x00), (5, 0x20)]) ∨
    (opcodeOf w = 0x63 ∧ ((funct3Of w).toNat = 2 ∨ (funct3Of w).toNat = 3)) ∨
    (opcodeOf w = 0x67 ∧ (funct3Of w).toNat ≠ 0) := by
  have hopcode : bitsOf w 6 0 = (opcodeOf w).toNat := (toNat_slice w 6 0).symm
  have hf3 : bitsOf w 14 12 = (funct3Of w).toNat := (toNat_slice w 14 12).symm
  have hf7 : bitsOf w 31 25 = (funct7Of w).toNat := (toNat_slice w 31 25).symm
  have hf6 : bitsOf w 31 26 = (funct6Of w).toNat := (toNat_slice w 31 26).symm
  simp [UnsupportedFunctWord, hopcode, hf3, hf7, hf6, ← BitVec.toNat_inj]

theorem decode_of_unsupportedFunctWord (h : UnsupportedFunctWord w) :
    decode w = .error (unsupportedFunctOf w) := by
  obtain ⟨hop, h⟩ | ⟨hop, h⟩ | ⟨hop, h⟩ | ⟨hop, h⟩ | ⟨hop, h⟩ | ⟨hop, h⟩ | ⟨hop, h⟩ | ⟨hop, h⟩ |
    ⟨hop, h⟩ := unsupportedFunctWord_iff.mp h
  · exact (decode_of_opcode_load hop).trans (decodeLoad_of_other_funct3 h)
  · exact (decode_of_opcode_miscMem hop).trans (decodeMiscMem_of_other_funct3 h)
  · exact (decode_of_opcode_opImm hop).trans (decodeOpImm_of_other_codes h)
  · exact (decode_of_opcode_opImm32 hop).trans (decodeOpImm32_of_other_codes h)
  · exact (decode_of_opcode_store hop).trans (decodeStore_of_other_funct3 h)
  · exact (decode_of_opcode_op hop).trans (decodeOp_of_other_codes h)
  · exact (decode_of_opcode_op32 hop).trans (decodeOp32_of_other_codes h)
  · exact (decode_of_opcode_branch hop).trans (decodeBranch_of_other_funct3 h)
  · exact (decode_of_opcode_jalr hop).trans (decodeJalr_of_other_funct3 h)

/-! ### The other function codes decode

The converse, opcode by opcode: an arm that answers an error is one that the function codes of no
word outside R109's table reach. -/

theorem exists_decodeLoad (h3 : (funct3Of w).toNat ≠ 7) : ∃ i, decodeLoad w = .ok i := by
  unfold decodeLoad
  split
  case h_8 =>
    simp at *
    bv_omega
  all_goals exact ⟨_, rfl⟩

theorem exists_decodeMiscMem (h3 : (funct3Of w).toNat = 0) : ∃ i, decodeMiscMem w = .ok i := by
  unfold decodeMiscMem
  split
  case h_1 => exact ⟨_, rfl⟩
  case h_2 =>
    simp at *
    bv_omega

theorem exists_decodeShiftLeftImm (h6 : (funct6Of w).toNat = 0b000000) :
    ∃ i, decodeShiftLeftImm w = .ok i := by
  unfold decodeShiftLeftImm
  split
  case h_1 => exact ⟨_, rfl⟩
  case h_2 =>
    simp at *
    bv_omega

theorem exists_decodeShiftRightImm (h6 : (funct6Of w).toNat ∈ [0b000000, 0b010000]) :
    ∃ i, decodeShiftRightImm w = .ok i := by
  unfold decodeShiftRightImm
  split
  case h_3 =>
    simp at *
    bv_omega
  all_goals exact ⟨_, rfl⟩

theorem exists_decodeOpImm (h1 : (funct3Of w).toNat = 1 → (funct6Of w).toNat = 0b000000)
    (h5 : (funct3Of w).toNat = 5 → (funct6Of w).toNat ∈ [0b000000, 0b010000]) :
    ∃ i, decodeOpImm w = .ok i := by
  unfold decodeOpImm
  split
  case h_2 e3 => exact exists_decodeShiftLeftImm (h1 (by rw [e3]; rfl))
  case h_6 e3 => exact exists_decodeShiftRightImm (h5 (by rw [e3]; rfl))
  case h_9 =>
    simp at *
    bv_omega
  all_goals exact ⟨_, rfl⟩

theorem exists_decodeOpImm32 (h3 : (funct3Of w).toNat ∉ [2, 3, 4, 6, 7])
    (h1 : (funct3Of w).toNat = 1 → (funct7Of w).toNat = 0x00)
    (h5 : (funct3Of w).toNat = 5 → (funct7Of w).toNat ∈ [0x00, 0x20]) :
    ∃ i, decodeOpImm32 w = .ok i := by
  unfold decodeOpImm32
  split
  case h_1 => exact ⟨_, rfl⟩
  case h_2 e3 =>
    have h7 := h1 (by rw [e3]; rfl)
    split
    case h_1 => exact ⟨_, rfl⟩
    case h_2 =>
      simp at *
      bv_omega
  case h_3 e3 =>
    have h7 := h5 (by rw [e3]; rfl)
    split
    case h_3 =>
      simp at *
      bv_omega
    all_goals exact ⟨_, rfl⟩
  case h_4 =>
    simp at *
    bv_omega

theorem exists_decodeStore (h3 : (funct3Of w).toNat < 4) : ∃ i, decodeStore w = .ok i := by
  unfold decodeStore
  split
  case h_5 =>
    simp at *
    bv_omega
  all_goals exact ⟨_, rfl⟩

theorem exists_decodeOpBase : ∃ i, decodeOpBase w = .ok i := by
  unfold decodeOpBase
  split
  case h_9 =>
    simp at *
    bv_omega
  all_goals exact ⟨_, rfl⟩

theorem exists_decodeOpAlt (h3 : (funct3Of w).toNat ∈ [0, 5]) : ∃ i, decodeOpAlt w = .ok i := by
  unfold decodeOpAlt
  split
  case h_3 =>
    simp at *
    bv_omega
  all_goals exact ⟨_, rfl⟩

theorem exists_decodeOp
    (hcodes : ((funct3Of w).toNat, (funct7Of w).toNat) ∈ [(0, 0x00), (0, 0x20), (1, 0x00),
      (2, 0x00), (3, 0x00), (4, 0x00), (5, 0x00), (5, 0x20), (6, 0x00), (7, 0x00)]) :
    ∃ i, decodeOp w = .ok i := by
  unfold decodeOp
  split
  case h_1 => exact exists_decodeOpBase
  case h_2 e7 => exact exists_decodeOpAlt (by simpa [e7] using hcodes)
  case h_3 =>
    simp at *
    bv_omega

theorem exists_decodeOp32
    (hcodes : ((funct3Of w).toNat, (funct7Of w).toNat) ∈ [(0, 0x00), (0, 0x20), (1, 0x00),
      (5, 0x00), (5, 0x20)]) :
    ∃ i, decodeOp32 w = .ok i := by
  unfold decodeOp32
  split
  case h_1 e7 =>
    split
    case h_4 =>
      simp at *
      bv_omega
    all_goals exact ⟨_, rfl⟩
  case h_2 e7 =>
    split
    case h_3 =>
      simp at *
      bv_omega
    all_goals exact ⟨_, rfl⟩
  case h_3 =>
    simp at *
    bv_omega

theorem exists_decodeBranch (h2 : (funct3Of w).toNat ≠ 2) (h3 : (funct3Of w).toNat ≠ 3) :
    ∃ i, decodeBranch w = .ok i := by
  unfold decodeBranch
  split
  case h_7 =>
    simp at *
    bv_omega
  all_goals exact ⟨_, rfl⟩

theorem exists_decodeJalr (h3 : (funct3Of w).toNat = 0) : ∃ i, decodeJalr w = .ok i := by
  unfold decodeJalr
  split
  case h_1 => exact ⟨_, rfl⟩
  case h_2 =>
    simp at *
    bv_omega

theorem exists_decode (hop : opcodeOf w ∈ supportedOpcodes) (hf : ¬ UnsupportedFunctWord w) :
    ∃ i, decode w = .ok i := by
  rw [unsupportedFunctWord_iff] at hf
  simp only [not_or, not_and, not_not, ne_eq, not_le] at hf
  obtain ⟨hload, hmiscMem, hopImm, hopImm32, hstore, hop33, hop3B, hbranch, hjalr⟩ := hf
  simp only [supportedOpcodes, List.mem_cons, List.not_mem_nil, or_false] at hop
  obtain h | h | h | h | h | h | h | h | h | h | h | h := hop
  · rw [decode_of_opcode_load h]
    exact exists_decodeLoad (hload h)
  · rw [decode_of_opcode_miscMem h]
    exact exists_decodeMiscMem (hmiscMem h)
  · rw [decode_of_opcode_opImm h]
    obtain ⟨h1, h5⟩ := hopImm h
    exact exists_decodeOpImm h1 h5
  · exact ⟨_, decode_of_opcode_auipc h⟩
  · rw [decode_of_opcode_opImm32 h]
    obtain ⟨h3, h1, h5⟩ := hopImm32 h
    exact exists_decodeOpImm32 h3 h1 h5
  · rw [decode_of_opcode_store h]
    exact exists_decodeStore (hstore h)
  · rw [decode_of_opcode_op h]
    exact exists_decodeOp (hop33 h)
  · exact ⟨_, decode_of_opcode_lui h⟩
  · rw [decode_of_opcode_op32 h]
    exact exists_decodeOp32 (hop3B h)
  · rw [decode_of_opcode_branch h]
    obtain ⟨h2, h3⟩ := hbranch h
    exact exists_decodeBranch h2 h3
  · rw [decode_of_opcode_jalr h]
    exact exists_decodeJalr (hjalr h)
  · exact ⟨_, decode_of_opcode_jal h⟩

/-! ### Every word, once (R107 to R109) -/

theorem decode_of_unsupportedOpcode (hop : opcodeOf w ∉ supportedOpcodes) :
    decode w = .error (.unsupportedOpcode (opcodeOf w)) := by
  unfold decode
  split
  case h_13 => rfl
  all_goals next e => exact absurd (by rw [e]; decide) hop

/-- All that the decoder can answer, and to which words. -/
theorem decode_cases (w : InstrWord) :
    (opcodeOf w ∉ supportedOpcodes ∧ decode w = .error (.unsupportedOpcode (opcodeOf w))) ∨
    (UnsupportedFunctWord w ∧ decode w = .error (unsupportedFunctOf w)) ∨
    (∃ i, decode w = .ok i) := by
  by_cases hop : opcodeOf w ∈ supportedOpcodes
  · by_cases hf : UnsupportedFunctWord w
    · exact .inr (.inl ⟨hf, decode_of_unsupportedFunctWord hf⟩)
    · exact .inr (.inr (exists_decode hop hf))
  · exact .inl ⟨hop, decode_of_unsupportedOpcode hop⟩

/-- The words that the spec's table lists are those with this error. -/
theorem decode_eq_unsupportedFunct_iff :
    (∃ op f3 f7, decode w = .error (.unsupportedFunct op f3 f7)) ↔ UnsupportedFunctWord w := by
  constructor
  · rintro ⟨op, f3, f7, h⟩
    obtain ⟨-, hd⟩ | ⟨hf, -⟩ | ⟨i, hd⟩ := decode_cases w
    · cases hd.symm.trans h
    · exact hf
    · cases hd.symm.trans h
  · intro hf
    exact ⟨_, _, _, decode_of_unsupportedFunctWord hf⟩

theorem decode_eq_unsupportedOpcode {op : BitVec 7}
    (h : decode w = .error (.unsupportedOpcode op)) :
    op = opcodeOf w ∧ opcodeOf w ∉ supportedOpcodes := by
  obtain ⟨hop, hd⟩ | ⟨-, hd⟩ | ⟨i, hd⟩ := decode_cases w
  · cases hd.symm.trans h
    exact ⟨rfl, hop⟩
  · cases hd.symm.trans h
  · cases hd.symm.trans h

end

/-- Settles O8, by the three answers of the decoder: a word that decodes has its row's bits. -/
theorem decodeErrorsAreStaged : Obligations.DecodeErrorsAreStaged := by
  refine ⟨fun w => decode_of_unsupportedOpcode, fun w op => decode_eq_unsupportedOpcode, ?_⟩
  intro w hop hrow
  obtain ⟨hnot, -⟩ | ⟨-, hd⟩ | ⟨i, hd⟩ := decode_cases w
  · exact absurd hop hnot
  · exact hd
  · exact absurd (rowBits_of_decode hd) (hrow i)

/-! ### Rows (R110) -/

/-- What the statement of a row says of a word that the row selects. -/
theorem exists_decode_of_decodesExactly {mask bits w : InstrWord} {build : InstrWord → Instr}
    (hexact : DecodesExactly mask bits build) (hrow : ∀ w, (build w).rowBits = ⟨mask, bits⟩)
    (hw : w &&& mask = bits) : ∃ j, decode w = .ok j ∧ j.rowBits = ⟨mask, bits⟩ :=
  ⟨build w, (hexact w).mpr hw, hrow w⟩

/-- FENCE's row, the one that no other statement has. -/
theorem decodesExactly_fence : DecodesExactly 0x0000707F 0x0000000F
    (fun w => .fence (w.extractLsb' 28 4) (w.extractLsb' 24 4) (w.extractLsb' 20 4) (rs1Of w)
      (rdOf w)) := by
  refine decodesExactly_of_funct3 (op := 0x0F) (f3 := 0) rfl (fun _ => rfl) ?_
  intro w hop h3
  rw [decode_of_opcode_miscMem hop, decodeMiscMem, h3]
  rfl

/-- The 50 rows, each from the obligation that states it. -/
theorem exists_decode_of_rowBits {w : InstrWord} {i : Instr}
    (hw : w &&& i.rowBits.mask = i.rowBits.bits) :
    ∃ j, decode w = .ok j ∧ j.rowBits = i.rowBits := by
  obtain ⟨lb, -, lh, -, lw, -⟩ := signedLoads
  obtain ⟨ld, -, lbu, -, lhu, -, lwu, -⟩ := doubleAndUnsignedLoads
  obtain ⟨add, -, sub, -⟩ := addAndSubtract
  obtain ⟨xor, -, or, -, and, -⟩ := logicalOnRegisters
  obtain ⟨sll, -, srl, -, sra, -⟩ := shiftsByRegister
  obtain ⟨slt, -, sltu, -⟩ := setLessOnRegisters
  obtain ⟨addw, -, subw, -⟩ := addAndSubtractWords
  obtain ⟨sllw, -, srlw, -, sraw, -⟩ := shiftsOfWordsByRegister
  obtain ⟨addi, -, addiw, -⟩ := addImmediate
  obtain ⟨slti, -, sltiu, -⟩ := setLessImmediate
  obtain ⟨xori, -, ori, -, andi, -⟩ := logicalImmediate
  obtain ⟨slli, -, srli, -, srai, -⟩ := shiftsByConstant
  obtain ⟨slliw, -, srliw, -, sraiw, -⟩ := shiftsOfWordsByConstant
  obtain ⟨sb, -, sh, -, sw, -, sd, -⟩ := stores
  obtain ⟨beq, -, bne, -⟩ := branchesOnEquality
  obtain ⟨blt, -, bge, -⟩ := branchesOnSignedOrder
  obtain ⟨bltu, -, bgeu, -⟩ := branchesOnUnsignedOrder
  obtain ⟨jal, -, jalr, -⟩ := jumpsLinkAndRedirect
  obtain ⟨lui, -, auipc, -⟩ := upperImmediates
  have fence := decodesExactly_fence
  cases i
  all_goals exact exists_decode_of_decodesExactly (by assumption) (fun _ => rfl) hw

/-- Settles O7: the rows in both directions, and the words that none selects. -/
theorem rowsSelectWords : Obligations.RowsSelectWords :=
  ⟨fun _ _ => rowBits_of_decode, fun _ _ => exists_decode_of_rowBits,
    fun _ => decode_eq_unsupportedFunct_iff⟩

end Sys2Proof

namespace Sys2Proof.Machine

/-! ### FENCE and the SYSTEM words (48_fence_system.md R300, R302, R303) -/

theorem exec_fence (fm pred succ : BitVec 4) (rs1 rd : RegIdx) (s : State) :
    exec (.fence fm pred succ rs1 rd) s = .next (s.setPc (s.pc + 4)) := rfl

/-- Settles O56: FENCE's row, and the one effect of a state that advances. -/
theorem fenceOnlyAdvances : Obligations.FenceOnlyAdvances := by
  refine ⟨?row, ?effect⟩
  case row =>
    intro w
    constructor
    · intro hw
      exact ⟨_, _, _, _, _, (decodesExactly_fence w).mpr hw⟩
    · rintro ⟨fm, pred, succ, rs1, rd, h⟩
      exact rowBits_of_decode h
  case effect =>
    intro fm pred succ rs1 rd s
    exact ⟨_, exec_fence fm pred succ rs1 rd s, movesOnlyPc_setPc s _⟩

/-- Settles O33: `0x73` is not one of the twelve opcodes, and ECALL and EBREAK have it. -/
theorem systemWordsStopTheHart : Obligations.SystemWordsStopTheHart := by
  intro s w hfetch hw
  have hop : opcodeOf w = 0x73 := by
    obtain rfl | rfl | hop := hw
    · rfl
    · rfl
    · exact hop
  have hdecode : decode w = .error (.unsupportedOpcode 0x73) := by
    rw [← hop]
    exact decode_of_unsupportedOpcode (by rw [hop]; decide)
  have hstep : step s = .fault (.unsupportedOpcode 0x73) := step_of_decode_error hfetch hdecode
  exact ⟨hstep, State.afterStep_of_fault hstep⟩

end Sys2Proof.Machine

/-!
PROOFS. What an instruction and a step can answer (spec/40_step_cycle.md section 1; 60_exceptions.md
sections 1 and 2): all the next states of an instruction, once, its one way to fail, and the four
conditions that stop a step. The frames, the errors and the end of a run follow.
-/

namespace Sys2Proof.Machine

/-! ### The next states of an instruction (R146 to R148) -/

/-- An instruction that goes on moves the pc, and beside that either nothing, or its destination
register, or the bytes of its store, which are in bounds. -/
theorem exec_next_cases {i : Instr} {s t : State} (h : exec i s = .next t) :
    (i.destination = none ∧ i.isStore = false ∧ ∃ target, t = s.setPc target) ∨
    (∃ rd, i.destination = some rd ∧ i.isStore = false ∧
      ∃ v target, t = (s.writeReg rd v).setPc target) ∨
    (i.destination = none ∧ i.isStore = true ∧ ∃ ea n v, InBounds s ea n ∧
      t = State.advance { s with mem := s.mem.setBytes (s.index ea).toNat (leBytes n v) }) := by
  obtain ⟨hdest, hstore, -, taken, target, hexec⟩ | ⟨rd, hdest, hstore, -, -, v, hexec⟩ |
    ⟨rd, ea, n, hdest, hstore, -, -, extend, hexec⟩ | ⟨ea, n, hdest, hstore, -, -, v, hexec⟩ |
    ⟨rd, target, hdest, hstore, -, -, hexec⟩ := exec_shape i s
  · rw [hexec, branchTo_cases] at h
    cases h
    exact .inl ⟨hdest, hstore, _, rfl⟩
  · rw [hexec] at h
    cases h
    exact .inr (.inl ⟨rd, hdest, hstore, v, s.pc + 4, rfl⟩)
  · obtain ⟨-, hnext⟩ | ⟨-, hfault⟩ := loadTo_cases rd ea n extend s
    · cases (hexec.trans hnext).symm.trans h
      exact .inr (.inl ⟨rd, hdest, hstore, _, s.pc + 4, rfl⟩)
    · cases (hexec.trans hfault).symm.trans h
  · obtain ⟨hin, hnext⟩ | ⟨-, hfault⟩ := storeAt_cases ea n v s
    · cases (hexec.trans hnext).symm.trans h
      exact .inr (.inr ⟨hdest, hstore, ea, n, v, State.inBounds_eq_true_iff.mp hin, rfl⟩)
    · cases (hexec.trans hfault).symm.trans h
  · rw [hexec] at h
    cases h
    exact .inr (.inl ⟨rd, hdest, hstore, s.pc + 4, target, rfl⟩)

/-- Settles O29: of the next states only a store's has another memory. -/
theorem onlyStoresChangeMemory : Obligations.OnlyStoresChangeMemory := by
  intro i s t hstore h
  obtain ⟨-, -, target, rfl⟩ | ⟨rd, -, -, v, target, rfl⟩ | ⟨-, hstore', -⟩ := exec_next_cases h
  · exact fun _ => rfl
  · exact fun _ => rfl
  · exact absurd (hstore.symm.trans hstore') (by decide)

/-- Settles O30: of the next states only one has other registers, and there the destination alone is
written. -/
theorem onlyTheDestinationRegisterChanges : Obligations.OnlyTheDestinationRegisterChanges := by
  intro i s t r h hr
  obtain ⟨-, -, target, rfl⟩ | ⟨rd, hdest, -, v, target, rfl⟩ | ⟨-, -, ea, n, v, -, rfl⟩ :=
    exec_next_cases h
  · rfl
  · have hne : r ≠ rd := fun e => hr (by rw [hdest, e])
    rw [State.readReg_setPc, State.readReg_writeReg, if_neg fun e => hne e.1]
  · rfl

/-! ### The one failure of an instruction (R144) -/

/-- All that an instruction can answer: the access, if there is one, decides. -/
theorem exec_cases (i : Instr) (s : State) :
    ((∀ a n, dataAccess i s = some (a, n) → InBounds s a n) ∧ ∃ t, exec i s = .next t) ∨
    (∃ a n, dataAccess i s = some (a, n) ∧ ¬ InBounds s a n ∧
      exec i s = .fault (.outOfBounds a n)) := by
  obtain ⟨-, -, hacc, taken, target, hexec⟩ | ⟨rd, -, -, hacc, -, v, hexec⟩ |
    ⟨rd, ea, n, -, -, hacc, -, extend, hexec⟩ | ⟨ea, n, -, -, hacc, -, v, hexec⟩ |
    ⟨rd, target, -, -, hacc, -, hexec⟩ := exec_shape i s
  · exact .inl ⟨by simp [hacc], _, hexec.trans (branchTo_cases taken target s)⟩
  · exact .inl ⟨by simp [hacc], _, hexec⟩
  · obtain ⟨hin, hnext⟩ | ⟨hout, hfault⟩ := loadTo_cases rd ea n extend s
    · exact .inl ⟨by simpa [hacc] using State.inBounds_eq_true_iff.mp hin, _, hexec.trans hnext⟩
    · exact .inr ⟨ea, n, hacc, State.inBounds_eq_false_iff.mp hout, hexec.trans hfault⟩
  · obtain ⟨hin, hnext⟩ | ⟨hout, hfault⟩ := storeAt_cases ea n v s
    · exact .inl ⟨by simpa [hacc] using State.inBounds_eq_true_iff.mp hin, _, hexec.trans hnext⟩
    · exact .inr ⟨ea, n, hacc, State.inBounds_eq_false_iff.mp hout, hexec.trans hfault⟩
  · exact .inl ⟨by simp [hacc], _, hexec⟩

theorem exec_of_access_inBounds {i : Instr} {s : State}
    (hin : ∀ a n, dataAccess i s = some (a, n) → InBounds s a n) : ∃ t, exec i s = .next t := by
  obtain ⟨-, hnext⟩ | ⟨a, n, hacc, hout, -⟩ := exec_cases i s
  · exact hnext
  · exact absurd (hin a n hacc) hout

theorem exec_of_access_not_inBounds {i : Instr} {s : State} {a : Word} {n : Nat}
    (hacc : dataAccess i s = some (a, n)) (hout : ¬ InBounds s a n) :
    exec i s = .fault (.outOfBounds a n) := by
  obtain ⟨hin, -⟩ | ⟨a', n', hacc', -, hfault⟩ := exec_cases i s
  · exact absurd (hin a n hacc) hout
  · cases hacc'.symm.trans hacc
    exact hfault

/-- Settles O27: both directions of `exec_cases`. -/
theorem handlersFailOnlyOutOfBounds : Obligations.HandlersFailOnlyOutOfBounds :=
  fun _ _ => ⟨exec_of_access_inBounds, fun _ _ => exec_of_access_not_inBounds⟩

theorem exec_ne_refused (i : Instr) (s : State) (r : Refusal) : exec i s ≠ .refused r := by
  intro h
  obtain ⟨-, t, hnext⟩ | ⟨a, n, -, -, hfault⟩ := exec_cases i s
  · cases hnext.symm.trans h
  · cases hfault.symm.trans h

theorem step_ne_refused (s : State) (r : Refusal) : step s ≠ .refused r := by
  intro h
  obtain ⟨-, hstep⟩ | ⟨-, w, e, -, -, hstep⟩ | ⟨-, w, i, -, -, hstep⟩ := step_cases s
  · cases hstep.symm.trans h
  · cases hstep.symm.trans h
  · exact exec_ne_refused i s r (hstep.symm.trans h)

/-- Settles O26: the two halves, of which the first needs the second for a word that decodes. -/
theorem nothingIsRefused : Obligations.NothingIsRefused := ⟨step_ne_refused, exec_ne_refused⟩

/-! ### Writes to `x0` (10_state.md R22; decision D12) -/

theorem State.writeReg_zero (s : State) (v : Word) : s.writeReg 0 v = s :=
  congrArg (fun x => { s with x := x }) (Regs.set_zero s.x v)

/-- Settles O14: with `x0` for its destination an instruction writes nothing but the pc, whose value
is O28's, and its access succeeds or fails as for any other destination. -/
theorem writesToZeroRegisterAreDropped : Obligations.WritesToZeroRegisterAreDropped := by
  intro i s hdest
  refine ⟨fun hin => ?_, fun a n => exec_of_access_not_inBounds⟩
  obtain ⟨t, h⟩ := exec_of_access_inBounds hin
  have hpc : t.pc = (redirect i s).getD (s.pc + 4) := by
    rw [pcIsSequencedOrRedirected i s t h]
    cases redirect i s <;> rfl
  have ht : t = s.setPc t.pc := by
    obtain ⟨hnone, -⟩ | ⟨rd, hrd, -, v, target, rfl⟩ | ⟨hnone, -⟩ := exec_next_cases h
    · cases hdest.symm.trans hnone
    · cases hdest.symm.trans hrd
      rw [State.writeReg_zero]
      rfl
    · cases hdest.symm.trans hnone
  rw [hpc] at ht
  exact ⟨t, h, ht ▸ movesOnlyPc_setPc s _⟩

/-! ### The conditions that stop a step (60_exceptions.md R321 to R324) -/

/-- A step fails exactly on a cause to halt, with that cause's error. -/
theorem step_eq_fault_iff {s : State} {f : Fault} : step s = .fault f ↔ HaltCause s f := by
  constructor
  · intro h
    obtain ⟨hout, hstep⟩ | ⟨-, w, e, hfetch, he, hstep⟩ | ⟨-, w, i, hfetch, hi, hstep⟩ :=
      step_cases s
    · cases hstep.symm.trans h
      exact .fetch (State.inBounds_eq_false_iff.mp hout)
    · obtain ⟨hop, hd⟩ | ⟨hf, hd⟩ | ⟨i, hd⟩ := decode_cases w
      · cases hd.symm.trans he
        cases hstep.symm.trans h
        exact .opcode w hfetch hop
      · cases hd.symm.trans he
        cases hstep.symm.trans h
        exact .funct w hfetch hf
      · cases hd.symm.trans he
    · obtain ⟨-, t, hnext⟩ | ⟨a, n, hacc, hout, hfault⟩ := exec_cases i s
      · cases (hstep.trans hnext).symm.trans h
      · cases (hstep.trans hfault).symm.trans h
        exact .access w i a n hfetch hi hacc hout
  · intro h
    cases h with
    | fetch hout => exact step_of_fetch_error (State.fetch_out_of_bounds hout)
    | opcode w hfetch hop => exact step_of_decode_error hfetch (decode_of_unsupportedOpcode hop)
    | funct w hfetch hf => exact step_of_decode_error hfetch (decode_of_unsupportedFunctWord hf)
    | access w i a n hfetch hi hacc hout =>
      exact (step_of_decode_ok hfetch hi).trans (exec_of_access_not_inBounds hacc hout)

/-- A state without a cause to halt goes on. -/
theorem step_next_of_no_cause {s : State} (h : ∀ f, ¬ HaltCause s f) : ∃ t, step s = .next t := by
  cases hs : step s with
  | next t => exact ⟨t, rfl⟩
  | fault f => exact absurd (step_eq_fault_iff.mp hs) (h f)
  | refused r => exact absurd hs (step_ne_refused s r)

theorem inBounds_of_fetch_ok {s : State} {w : InstrWord} (h : s.fetch = .ok w) :
    InBounds s s.pc 4 := by
  by_contra hout
  cases (State.fetch_out_of_bounds hout).symm.trans h

/-- Settles O25: the four conditions are those of `HaltCause`; a fetch that answers a word was in
bounds. -/
theorem errorsComeInPriorityOrder : Obligations.ErrorsComeInPriorityOrder := by
  intro s f
  rw [step_eq_fault_iff]
  constructor
  · intro h
    cases h with
    | fetch hout => exact .inl ⟨hout, rfl⟩
    | opcode w hfetch hop =>
      exact .inr ⟨inBounds_of_fetch_ok hfetch, w, hfetch, .inl ⟨hop, rfl⟩⟩
    | funct w hfetch hf =>
      exact .inr ⟨inBounds_of_fetch_ok hfetch, w, hfetch, .inr (.inl ⟨hf, rfl⟩)⟩
    | access w i a n hfetch hi hacc hout =>
      exact .inr ⟨inBounds_of_fetch_ok hfetch, w, hfetch,
        .inr (.inr ⟨i, a, n, hi, hacc, hout, rfl⟩)⟩
  · rintro (⟨hout, rfl⟩ | ⟨-, w, hfetch, ⟨hop, rfl⟩ | ⟨hf, rfl⟩ | ⟨i, a, n, hi, hacc, hout, rfl⟩⟩)
    · exact .fetch hout
    · exact .opcode w hfetch hop
    · exact .funct w hfetch hf
    · exact .access w i a n hfetch hi hacc hout

end Sys2Proof.Machine

/-!
PROOFS. Runs (spec/40_step_cycle.md section 3; 60_exceptions.md R328, R329): the invariant along a
run, and where and how a run ends. What is said of `Host.Core.run` holds of every machine.
-/

namespace Sys2Proof.Machine

/-! ### The invariant (10_state.md section 3) -/

theorem exec_keeps_inv {i : Instr} {s t : State} (hs : s.Inv) (h : exec i s = .next t) :
    t.Inv ∧ t.config = s.config := by
  obtain ⟨hlegal, hwf⟩ := hs
  obtain ⟨-, -, target, rfl⟩ | ⟨rd, -, -, v, target, rfl⟩ | ⟨-, -, ea, n, v, ⟨hlow, hhigh⟩, rfl⟩ :=
    exec_next_cases h
  · exact ⟨⟨hlegal, hwf⟩, rfl⟩
  · exact ⟨⟨hlegal, hwf⟩, rfl⟩
  · have hend : (s.index ea).toNat + (leBytes n v).length ≤ s.config.memCapacity := by
      rw [leBytes_length, State.index]
      omega
    exact ⟨⟨hlegal, Memory.setBytes_wf _ hend hwf⟩, rfl⟩

/-- Settles O21: a step that goes on is an instruction's, and of those only a store changes Memory,
inside its capacity. -/
theorem stepKeepsInvariant : Obligations.StepKeepsInvariant := by
  intro s t hs h
  obtain ⟨-, hstep⟩ | ⟨-, w, e, -, -, hstep⟩ | ⟨-, w, i, -, -, hstep⟩ := step_cases s
  · cases hstep.symm.trans h
  · cases hstep.symm.trans h
  · exact exec_keeps_inv hs (hstep.symm.trans h)

/-! ### Runs, of any machine -/

theorem core_run_succ_of_next {M : Host.Core} {s t : M.State} (h : M.step s = .next t) (k : Nat) :
    M.run (k + 1) s = M.run k t := by
  rw [Host.Core.run, h]

theorem core_run_succ_of_fault {M : Host.Core} {s : M.State} {f : M.Fault}
    (h : M.step s = .fault f) (k : Nat) : M.run (k + 1) s = .fault f := by
  rw [Host.Core.run, h]

/-- A run of `k + 1` steps that goes on is a step that goes on and then a run of `k`. -/
theorem core_run_succ_next {M : Host.Core} {s t : M.State} {k : Nat}
    (h : M.run (k + 1) s = .next t) : ∃ u, M.step s = .next u ∧ M.run k u = .next t := by
  rw [Host.Core.run] at h
  cases hs : M.step s with
  | next u =>
    rw [hs] at h
    exact ⟨u, rfl, h⟩
  | fault f =>
    rw [hs] at h
    cases h
  | refused r =>
    rw [hs] at h
    cases h

theorem core_run_add {M : Host.Core} {s t : M.State} {k : Nat} (h : M.run k s = .next t)
    (m : Nat) : M.run (k + m) s = M.run m t := by
  induction k generalizing s with
  | zero =>
    cases h
    rw [Nat.zero_add]
  | succ k ih =>
    obtain ⟨u, hu, hrun⟩ := core_run_succ_next h
    rw [Nat.add_right_comm, core_run_succ_of_next hu, ih hrun]

/-- Settles O22, by induction on the number of steps. -/
theorem runsKeepInvariant : Obligations.RunsKeepInvariant := by
  intro k
  induction k with
  | zero =>
    intro s t hs h
    cases h
    exact ⟨hs, rfl⟩
  | succ k ih =>
    intro s t hs h
    obtain ⟨u, hu, hrun⟩ := core_run_succ_next h
    obtain ⟨huInv, huConfig⟩ := stepKeepsInvariant s u hs hu
    obtain ⟨htInv, htConfig⟩ := ih u t huInv hrun
    exact ⟨htInv, htConfig.trans huConfig⟩

/-! ### Calls of `step()` (60_exceptions.md R328, R329) -/

theorem State.afterSteps_succ_of_next {s t : State} (h : step s = .next t) (k : Nat) :
    State.afterSteps (k + 1) s = State.afterSteps k t := by
  rw [State.afterSteps, State.afterStep_of_next h]

/-- Calls after a failed step find the same state, however many they are. -/
theorem State.afterSteps_of_fault {s : State} {f : Fault} (h : step s = .fault f) (m : Nat) :
    State.afterSteps m s = s := by
  induction m with
  | zero => rfl
  | succ m ih => rw [State.afterSteps, State.afterStep_of_fault h, ih]

theorem State.afterSteps_add {s t : State} {k : Nat} (h : Sys2Proof.core.run k s = .next t)
    (m : Nat) : State.afterSteps (k + m) s = State.afterSteps m t := by
  induction k generalizing s with
  | zero =>
    cases h
    rw [Nat.zero_add]
  | succ k ih =>
    obtain ⟨u, hu, hrun⟩ := core_run_succ_next h
    rw [Nat.add_right_comm, State.afterSteps_succ_of_next hu, ih hrun]

/-- Settles O31: `step_eq_fault_iff` says where a step fails, and a state on which it fails is the
state after it too. -/
theorem haltIsForEver : Obligations.HaltIsForEver := by
  intro k s t hrun
  constructor
  · intro f hcause m
    have hstep : step t = .fault f := step_eq_fault_iff.mpr hcause
    have hafter : State.afterSteps (k + m) s = t :=
      (State.afterSteps_add hrun m).trans (State.afterSteps_of_fault hstep m)
    refine ⟨hafter, by rw [hafter, hstep], ?_⟩
    rw [Nat.add_assoc, core_run_add hrun]
    exact core_run_succ_of_fault hstep m
  · intro hnone
    obtain ⟨u, hstep⟩ := step_next_of_no_cause hnone
    refine ⟨u, hstep, ?_, ?_⟩
    · exact (State.afterSteps_add hrun 1).trans (State.afterSteps_succ_of_next hstep 0)
    · exact (core_run_add hrun 1).trans (core_run_succ_of_next (M := Sys2Proof.core) hstep 0)

end Sys2Proof.Machine

/-!
PROOFS. What a step reads (spec/40_step_cycle.md sections 1 and 2; 20_memory.md section 6): with the
registers, the pc and the configuration fixed, an instruction is one function of Memory, which a
load reads, a store changes and every other instruction passes on.
-/

namespace Sys2Proof.Machine

/-- The shapes of an instruction over two memories at once: what does not come from Memory is the
same in both. -/
theorem exec_shape_setMem (i : Instr) (s : State) (m : Memory) :
    (∃ x pc, exec i s = .next { s with x := x, pc := pc } ∧
      exec i { s with mem := m } = .next { s with x := x, pc := pc, mem := m }) ∨
    (∃ ea n, dataAccess i s = some (ea, n) ∧ ∃ rd extend, exec i s = loadTo rd ea n extend s ∧
      exec i { s with mem := m } = loadTo rd ea n extend { s with mem := m }) ∨
    (∃ ea n, dataAccess i s = some (ea, n) ∧ ∃ v, exec i s = storeAt ea n v s ∧
      exec i { s with mem := m } = storeAt ea n v { s with mem := m }) := by
  cases i
  case beq | bne | blt | bge | bltu | bgeu =>
    exact .inl ⟨s.x, _, branchTo_cases _ _ s, branchTo_cases _ _ { s with mem := m }⟩
  case lb | lh | lw | ld | lbu | lhu | lwu =>
    exact .inr (.inl ⟨_, _, rfl, _, _, rfl, rfl⟩)
  case sb | sh | sw | sd => exact .inr (.inr ⟨_, _, rfl, _, rfl, rfl⟩)
  all_goals exact .inl ⟨_, _, rfl, rfl⟩

/-- What two answers have in common when the step cannot tell the memories apart: the error, or the
next state but for the bytes in which the memories `m` and `m'` differed. -/
def AlikeAnswers (m m' : Memory) (r r' : Result) : Prop :=
  (∀ f, r = .fault f → r' = .fault f) ∧
  (∀ t, r = .next t → ∃ t', r' = .next t' ∧ t'.config = t.config ∧ t'.x = t.x ∧ t'.pc = t.pc ∧
    ∀ j, m.readByte j = m'.readByte j → t.mem.readByte j = t'.mem.readByte j)

section

variable {m m' : Memory} {s : State} {ea : Word} {n : Nat}

theorem alikeAnswers_fault (f : Fault) : AlikeAnswers m m' (.fault f) (.fault f) :=
  ⟨fun _ h => h, fun _ h => (nomatch h)⟩

theorem alikeAnswers_next {u : State} {mem mem' : Memory}
    (hmem : ∀ j, m.readByte j = m'.readByte j → mem.readByte j = mem'.readByte j) :
    AlikeAnswers m m' (.next { u with mem := mem }) (.next { u with mem := mem' }) := by
  refine ⟨fun _ h => (nomatch h), fun t h => ?_⟩
  cases h
  exact ⟨_, rfl, rfl, rfl, rfl, hmem⟩

/-- A load reads only its bytes. -/
theorem alikeAnswers_loadTo (rd : RegIdx) (extend : Nat → Word)
    (hbytes : ∀ k < n, m.readByte ((s.index ea).toNat + k) = m'.readByte ((s.index ea).toNat + k)) :
    AlikeAnswers m m' (loadTo rd ea n extend { s with mem := m })
      (loadTo rd ea n extend { s with mem := m' }) := by
  by_cases hin : InBounds s ea n
  · have hvalue : MemValue { s with mem := m } ea n = MemValue { s with mem := m' } ea n :=
      Memory.readBytes_congr hbytes
    rw [loadTo_of_inBounds (s := { s with mem := m }) rd extend hin,
      loadTo_of_inBounds (s := { s with mem := m' }) rd extend hin, hvalue]
    exact alikeAnswers_next (u := (s.writeReg rd _).advance) fun _ hj => hj
  · rw [loadTo_of_not_inBounds (s := { s with mem := m }) rd extend hin,
      loadTo_of_not_inBounds (s := { s with mem := m' }) rd extend hin]
    exact alikeAnswers_fault _

/-- A store puts the same bytes into either memory. -/
theorem readByte_setBytes_congr (i : Nat) (bs : List Byte) {j : Nat}
    (hj : m.readByte j = m'.readByte j) :
    (m.setBytes i bs).readByte j = (m'.setBytes i bs).readByte j := by
  rw [Memory.readByte_setBytes, Memory.readByte_setBytes, hj]

theorem alikeAnswers_storeAt (v : Word) :
    AlikeAnswers m m' (storeAt ea n v { s with mem := m })
      (storeAt ea n v { s with mem := m' }) := by
  obtain ⟨hin, hnext⟩ | ⟨hout, hfault⟩ := storeAt_cases ea n v { s with mem := m }
  · obtain ⟨-, hnext'⟩ | ⟨hout', -⟩ := storeAt_cases ea n v { s with mem := m' }
    · rw [hnext, hnext']
      exact alikeAnswers_next (u := s.advance) fun _ => readByte_setBytes_congr _ _
    · exact absurd (hin.symm.trans hout') (by decide)
  · rw [hfault, storeAt_of_not_inBounds (s := { s with mem := m' }) v
      (State.inBounds_eq_false_iff.mp hout)]
    exact alikeAnswers_fault _

end

/-- The instruction's part of O32. -/
theorem alikeAnswers_exec {i : Instr} {s : State} {m' : Memory}
    (hbytes : ∀ a n, dataAccess i s = some (a, n) → ∀ k < n,
      s.mem.readByte ((s.index a).toNat + k) = m'.readByte ((s.index a).toNat + k)) :
    AlikeAnswers s.mem m' (exec i s) (exec i { s with mem := m' }) := by
  obtain ⟨x, pc, hexec, hexec'⟩ | ⟨ea, n, hacc, rd, extend, hexec, hexec'⟩ |
    ⟨ea, n, -, v, hexec, hexec'⟩ := exec_shape_setMem i s m'
  · rw [hexec, hexec']
    exact alikeAnswers_next (u := { s with x := x, pc := pc }) fun _ hj => hj
  · rw [hexec, hexec']
    exact alikeAnswers_loadTo rd extend (hbytes ea n hacc)
  · rw [hexec, hexec']
    exact alikeAnswers_storeAt v

/-- The fetch reads only the four bytes at the pc. -/
theorem State.fetch_setMem {s : State} {m' : Memory}
    (hbytes : ∀ k < 4, s.mem.readByte ((s.index s.pc).toNat + k)
      = m'.readByte ((s.index s.pc).toNat + k)) :
    State.fetch { s with mem := m' } = s.fetch := by
  by_cases hin : InBounds s s.pc 4
  · have hvalue : MemValue s s.pc 4 = MemValue { s with mem := m' } s.pc 4 :=
      Memory.readBytes_congr hbytes
    rw [State.fetch_eq_memValue hin, State.fetch_eq_memValue (s := { s with mem := m' }) hin,
      hvalue]
  · rw [State.fetch_out_of_bounds hin, State.fetch_out_of_bounds (s := { s with mem := m' }) hin]

theorem alikeAnswers_step {s : State} {m' : Memory}
    (hfetched : ∀ k < 4, s.mem.readByte ((s.index s.pc).toNat + k)
      = m'.readByte ((s.index s.pc).toNat + k))
    (haccessed : ∀ w i a n, s.fetch = .ok w → decode w = .ok i → dataAccess i s = some (a, n) →
      ∀ k < n, s.mem.readByte ((s.index a).toNat + k) = m'.readByte ((s.index a).toNat + k)) :
    AlikeAnswers s.mem m' (step s) (step { s with mem := m' }) := by
  have hfetch' := State.fetch_setMem hfetched
  cases hfetch : s.fetch with
  | error f =>
    rw [step_of_fetch_error hfetch, step_of_fetch_error (hfetch'.trans hfetch)]
    exact alikeAnswers_fault f
  | ok w =>
    cases hd : decode w with
    | error e =>
      rw [step_of_decode_error hfetch hd, step_of_decode_error (hfetch'.trans hfetch) hd]
      exact alikeAnswers_fault _
    | ok i =>
      rw [step_of_decode_ok hfetch hd, step_of_decode_ok (hfetch'.trans hfetch) hd]
      exact alikeAnswers_exec fun a n => haccessed w i a n hfetch hd

/-- Settles O32: two states with equal configuration, registers and pc are one state with two
memories. -/
theorem stepDependsOnAccessedBytesOnly : Obligations.StepDependsOnAccessedBytesOnly := by
  rintro ⟨config, x, pc, m⟩ ⟨_, _, _, m'⟩ ⟨⟩ ⟨⟩ ⟨⟩ hfetched haccessed
  exact alikeAnswers_step hfetched haccessed

end Sys2Proof.Machine

/-!
PROOFS. Registers and Memory across several accesses (spec/10_state.md R21, R22, R28; 20_memory.md
sections 2, 4 and 6): the value of a read whose bytes are those of a stored word, from which a load,
a fetch or a read of another width sees what stores have written, and the canonical form of Memory.
-/

namespace Sys2Proof.Machine

/-! ### The register file -/

/-- Settles O13: the cases of `Regs.get_set`. -/
theorem registerReadAfterWrite : Obligations.RegisterReadAfterWrite := by
  intro x i j v
  refine ⟨fun hi => ?_, Regs.get_zero _, Regs.get_zero x, fun hj => ?_⟩
  · rw [Regs.get_set, if_pos ⟨rfl, hi⟩]
  · rw [Regs.get_set, if_neg fun e => hj e.1]

/-! ### The value of some bytes of a word (20_memory.md R56, R58) -/

theorem toNat_byteOf (v : Word) (k : Nat) : (byteOf v k).toNat = v.toNat / 2 ^ (8 * k) % 2 ^ 8 := by
  rw [byteOf, BitVec.extractLsb'_toNat, Nat.shiftRight_eq_div_pow]

/-- Bytes `k` to `k + m - 1` of `v` read as the number that those bits of `v` stand for. -/
theorem Memory.readBytes_of_byteOf {mem : Memory} {i k m : Nat} {v : Word}
    (h : ∀ j < m, mem.readByte (i + j) = byteOf v (k + j)) :
    mem.readBytes i m = v.toNat / 2 ^ (8 * k) % 2 ^ (8 * m) := by
  induction m with
  | zero => simp [Memory.readBytes, Nat.mod_one]
  | succ m ih =>
    have hlow := ih fun j hj => h j (Nat.lt_succ_of_lt hj)
    have hbyte : (mem.readByte (i + m)).toNat =
        v.toNat / 2 ^ (8 * k) / 2 ^ (8 * m) % 2 ^ 8 := by
      rw [h m (Nat.lt_succ_self m), toNat_byteOf, Nat.div_div_eq_div_mul, ← pow_add, Nat.mul_add]
    rw [Memory.readBytes_succ, hlow, hbyte, Nat.mul_succ 8 m, pow_add, Nat.mod_mul,
      Nat.mul_comm (2 ^ (8 * m))]

/-- A wide reading is the readings of its two parts side by side. -/
theorem Memory.readBytes_add (mem : Memory) (i n m : Nat) :
    mem.readBytes i (n + m) = mem.readBytes i n + 2 ^ (8 * n) * mem.readBytes (i + n) m := by
  induction m with
  | zero => simp [Memory.readBytes]
  | succ m ih =>
    rw [← Nat.add_assoc, Memory.readBytes_succ, ih, Memory.readBytes_succ, Nat.add_assoc i n m,
      Nat.mul_add 8 n m, pow_add]
    ring

/-- A read of `m` bytes, `k` bytes into a store of `n`. -/
theorem Memory.readBytes_setBytes_inside (mem : Memory) (i : Nat) {n k m : Nat} (v : Word)
    (hk : k + m ≤ n) : (mem.setBytes i (leBytes n v)).readBytes (i + k) m =
      v.toNat / 2 ^ (8 * k) % 2 ^ (8 * m) := by
  refine Memory.readBytes_of_byteOf fun j hj => ?_
  rw [Nat.add_assoc]
  exact Memory.readByte_setBytes_leBytes_inside mem i v (by omega)

/-- A read from where a store begins. -/
theorem Memory.readBytes_setBytes_start (mem : Memory) (i : Nat) {n m : Nat} (v : Word)
    (hm : m ≤ n) : (mem.setBytes i (leBytes n v)).readBytes i m = v.toNat % 2 ^ (8 * m) := by
  have h := Memory.readBytes_setBytes_inside mem i v (k := 0) (show 0 + m ≤ n by omega)
  simpa using h

/-- A store to bytes that a read does not touch. -/
theorem Memory.readBytes_setBytes_below (mem : Memory) {i j n m : Nat} (v : Word)
    (h : j + m ≤ i) : (mem.setBytes i (leBytes n v)).readBytes j m = mem.readBytes j m :=
  Memory.readBytes_congr fun _ hk =>
    Memory.readByte_setBytes_leBytes_outside mem v (by omega)

/-! ### Addresses inside one access (20_memory.md R52, R53) -/

/-- In a legal configuration no address of a byte in bounds wraps. -/
theorem toNat_add_of_inBounds {s : State} {a : Word} {n k : Nat} (hlegal : s.config.Legal)
    (hin : InBounds s a n) (hk : k < n) : (a + BitVec.ofNat 64 k).toNat = a.toNat + k := by
  obtain ⟨-, hend⟩ := hlegal
  obtain ⟨hlow, hhigh⟩ := hin
  rw [BitVec.toNat_add, BitVec.toNat_ofNat]
  omega

theorem index_toNat_add_of_inBounds {s : State} {a : Word} {n k : Nat} (hlegal : s.config.Legal)
    (hin : InBounds s a n) (hk : k < n) :
    (s.index (a + BitVec.ofNat 64 k)).toNat = (s.index a).toNat + k := by
  have hnat := toNat_add_of_inBounds hlegal hin hk
  obtain ⟨hlow, -⟩ := hin
  unfold State.index
  omega

theorem inBounds_add {s : State} {a : Word} {n k m : Nat} (hlegal : s.config.Legal)
    (hin : InBounds s a n) (hk : k < n) (hm : k + m ≤ n) :
    InBounds s (a + BitVec.ofNat 64 k) m := by
  have hnat := toNat_add_of_inBounds hlegal hin hk
  obtain ⟨hlow, hhigh⟩ := hin
  unfold InBounds
  omega

/-! ### Accesses to a state whose Memory has changed -/

theorem State.memRead_setMem {s : State} {a : Word} {n : Nat} (mem : Memory)
    (hin : InBounds s a n) :
    State.memRead { s with mem := mem } a n = .ok (mem.readBytes (s.index a).toNat n) :=
  State.memRead_eq_memValue (s := { s with mem := mem }) hin

theorem State.fetch_setMem_of_inBounds {s : State} (mem : Memory) (hin : InBounds s s.pc 4) :
    State.fetch { s with mem := mem } =
      .ok (BitVec.ofNat 32 (mem.readBytes (s.index s.pc).toNat 4)) :=
  State.fetch_eq_memValue (s := { s with mem := mem }) hin

theorem State.memWrite_setMem {s : State} {a : Word} {n : Nat} (mem : Memory) (v : Word)
    (hin : InBounds s a n) : State.memWrite { s with mem := mem } a n v =
      .ok { s with mem := mem.setBytes (s.index a).toNat (leBytes n v) } :=
  State.memWrite_ok (s := { s with mem := mem }) (State.inBounds_eq_true_iff.mpr hin)

/-- All that a `MemWrite` that answers can do. -/
theorem State.memWrite_eq_ok {s t : State} {a v : Word} {n : Nat} (h : s.memWrite a n v = .ok t) :
    InBounds s a n ∧ t = { s with mem := s.mem.setBytes (s.index a).toNat (leBytes n v) } := by
  obtain ⟨hin, hok⟩ | ⟨-, herror⟩ := s.memWrite_cases a n v
  · cases hok.symm.trans h
    exact ⟨State.inBounds_eq_true_iff.mp hin, rfl⟩
  · cases herror.symm.trans h

/-- O17's first half. -/
theorem memRead_inside_memWrite {s t : State} {a v : Word} {n k m : Nat} (hlegal : s.config.Legal)
    (h : s.memWrite a n v = .ok t) (hm : 1 ≤ m) (hkm : k + m ≤ n) :
    t.memRead (a + BitVec.ofNat 64 k) m = .ok (v.toNat / 2 ^ (8 * k) % 2 ^ (8 * m)) := by
  obtain ⟨hin, rfl⟩ := State.memWrite_eq_ok h
  have hk : k < n := by omega
  rw [State.memRead_setMem _ (inBounds_add hlegal hin hk hkm),
    index_toNat_add_of_inBounds hlegal hin hk, Memory.readBytes_setBytes_inside _ _ v hkm]

/-- O17's second half: the second write leaves the bytes of the first, which lie below its own. -/
theorem memRead_over_two_memWrites {s t : State} {a v v' : Word} {n m : Nat}
    (hlegal : s.config.Legal) (hm : 1 ≤ m) (hin : InBounds s a (n + m))
    (h : s.memWrite a n v = .ok t) :
    ∃ u, t.memWrite (a + BitVec.ofNat 64 n) m v' = .ok u ∧
      u.memRead a (n + m)
        = .ok (v.toNat % 2 ^ (8 * n) + 2 ^ (8 * n) * (v'.toNat % 2 ^ (8 * m))) := by
  obtain ⟨-, rfl⟩ := State.memWrite_eq_ok h
  have hn : n < n + m := by omega
  refine ⟨_, State.memWrite_setMem _ v' (inBounds_add hlegal hin hn le_rfl), ?_⟩
  rw [State.memRead_setMem _ hin, index_toNat_add_of_inBounds hlegal hin hn, Memory.readBytes_add,
    Memory.readBytes_setBytes_below _ v' le_rfl, Memory.readBytes_setBytes_start _ _ v le_rfl,
    Memory.readBytes_setBytes_start _ _ v' le_rfl]

/-- Settles O17. -/
theorem mixedWidthAccessesSeeBytes : Obligations.MixedWidthAccessesSeeBytes :=
  ⟨fun _ _ _ _ _ _ _ hlegal h _ hm hkm => memRead_inside_memWrite hlegal h hm hkm,
    fun _ _ _ _ _ _ _ hlegal _ _ hm _ hin h => memRead_over_two_memWrites hlegal hm hin h⟩

/-! ### Stores seen by loads and fetches (20_memory.md section 6) -/

/-- All that a store that goes on does. -/
theorem storeAt_eq_next {s t : State} {ea v : Word} {n : Nat} (h : storeAt ea n v s = .next t) :
    InBounds s ea n ∧
      t = State.advance { s with mem := s.mem.setBytes (s.index ea).toNat (leBytes n v) } := by
  obtain ⟨hin, hnext⟩ | ⟨-, hfault⟩ := storeAt_cases ea n v s
  · cases hnext.symm.trans h
    exact ⟨State.inBounds_eq_true_iff.mp hin, rfl⟩
  · cases hfault.symm.trans h

/-- The value of the stored bytes in the state after the store, which is in bounds there too. -/
theorem memValue_of_storeAt {s t : State} {ea v : Word} {n : Nat}
    (h : storeAt ea n v s = .next t) :
    InBounds t ea n ∧ MemValue t ea n = v.toNat % 2 ^ (8 * n) := by
  obtain ⟨hin, rfl⟩ := storeAt_eq_next h
  exact ⟨hin, Memory.readBytes_setBytes_start s.mem _ v le_rfl⟩

theorem storeAt_readReg {s t : State} {ea v : Word} {n : Nat} (h : storeAt ea n v s = .next t)
    (r : RegIdx) : t.readReg r = s.readReg r := by
  obtain ⟨-, rfl⟩ := storeAt_eq_next h
  rfl

theorem ofNat_mod_two_pow (n x : Nat) : BitVec.ofNat n (x % 2 ^ n) = BitVec.ofNat n x := by
  apply BitVec.eq_of_toNat_eq
  rw [BitVec.toNat_ofNat, BitVec.toNat_ofNat, Nat.mod_mod]

/-- Settles O38: the load has the store's address, and eight bytes hold the whole register. -/
theorem doubleStoredIsLoadedBack : Obligations.DoubleStoredIsLoadedBack := by
  intro s t rd rs1 rs2 imm h
  have hstore : storeAt (s.readReg rs1 + imm) 8 (s.readReg rs2) s = .next t := h
  obtain ⟨hin, hvalue⟩ := memValue_of_storeAt hstore
  rw [← storeAt_readReg hstore rs1] at hin hvalue
  have hword : BitVec.ofNat 64 (MemValue t (t.readReg rs1 + imm) 8) = s.readReg rs2 := by
    rw [hvalue, ofNat_mod_two_pow 64, BitVec.ofNat_toNat, BitVec.setWidth_eq]
  obtain ⟨hld, -⟩ := doubleAndUnsignedLoads.2
  obtain ⟨hload, -⟩ := hld rd rs1 imm t
  obtain ⟨u, hu, heffect⟩ := hload hin
  exact ⟨u, hu, hword ▸ heffect⟩

/-- Settles O39: the store's address is the pc after it. -/
theorem nextFetchSeesTheStore : Obligations.NextFetchSeesTheStore := by
  intro s t rs1 rs2 imm h haddr
  have hstore : storeAt (s.readReg rs1 + imm) 4 (s.readReg rs2) s = .next t := h
  obtain ⟨hin, hvalue⟩ := memValue_of_storeAt hstore
  rw [haddr, ← storeAt_pc hstore] at hin hvalue
  rw [State.fetch_eq_memValue hin, hvalue, ofNat_mod_two_pow 32]

/-! ### A word placed for the next fetch (log entry 3) -/

theorem State.withFetchWord_eq_setBytes {s : State} {w : Nat} (hin : InBounds s s.pc 4)
    (hw : w < 2 ^ 32) : s.withFetchWord 32 w = { s with
      mem := s.mem.setBytes (s.index s.pc).toNat (leBytes 4 (zext (BitVec.ofNat 32 w))) } := by
  rw [State.withFetchWord, Nat.mod_eq_of_lt hw, State.placeWord,
    State.memWrite_ok (State.inBounds_eq_true_iff.mpr hin)]

/-- Settles O60: placing a word is a store of its four bytes at the pc, and a fetch reads them. -/
theorem placedWordIsFetched : Obligations.PlacedWordIsFetched := by
  intro s w hin hw
  rw [State.withFetchWord_eq_setBytes hin hw]
  refine ⟨?_, rfl, rfl, rfl, fun i hi => ?_⟩
  · rw [State.fetch_setMem_of_inBounds _ hin, Memory.readBytes_setBytes_start _ _ _ le_rfl,
      ofNat_mod_two_pow 32, toNat_zext (by decide), BitVec.toNat_ofNat, ofNat_mod_two_pow 32]
  · obtain ⟨hlow, -⟩ := hin
    have hindex : 0 ≤ s.index s.pc := hlow
    exact Memory.readByte_setBytes_leBytes_outside s.mem _ (by omega)

/-! ### The canonical form (10_state.md section 3; log entry 5) -/

/-- A byte below every listed index is unlisted. -/
theorem Memory.readByte_of_forall_lt {m : Memory} {i : Nat} (h : ∀ c ∈ m, i < c.1) :
    m.readByte i = Memory.unlisted := by
  induction m with
  | nil => rfl
  | cons c rest ih =>
    obtain ⟨hc, hrest⟩ := List.forall_mem_cons.mp h
    rw [Memory.readByte, if_neg (Nat.ne_of_gt hc), ih hrest]

/-- In a canonical list the first entry decides: its byte is listed, and no index below it is. -/
theorem Memory.wf_cons {capacity k : Nat} {b : Byte} {rest : Memory}
    (h : Memory.wf capacity ((k, b) :: rest)) :
    b ≠ Memory.unlisted ∧ (∀ c ∈ rest, k < c.1) ∧ Memory.wf capacity rest := by
  obtain ⟨hsorted, hcells⟩ := h
  obtain ⟨hfirst, hsorted⟩ := List.pairwise_cons.mp hsorted
  obtain ⟨⟨-, hb⟩, hcells⟩ := List.forall_mem_cons.mp hcells
  exact ⟨hb, hfirst, hsorted, hcells⟩

/-- No index up to `k` reads anything in the rest of a list whose first entry is for `k`. -/
theorem Memory.readByte_rest {k i : Nat} {rest : Memory} (h : ∀ c ∈ rest, k < c.1) (hi : i ≤ k) :
    Memory.readByte rest i = Memory.unlisted :=
  Memory.readByte_of_forall_lt fun c hc => hi.trans_lt (h c hc)

/-- The first entry of a canonical list reads back, so a list that reads alike is not empty and its
first index is no greater. -/
theorem Memory.head_le_of_reads_alike {capacity k : Nat} {b : Byte} {rest m' : Memory}
    (h : Memory.wf capacity ((k, b) :: rest)) (h' : Memory.wf capacity m')
    (halike : Memory.readByte ((k, b) :: rest) k = Memory.readByte m' k) :
    ∃ k' b' rest', m' = (k', b') :: rest' ∧ k' ≤ k := by
  obtain ⟨hb, -, -⟩ := Memory.wf_cons h
  rw [Memory.readByte, if_pos rfl] at halike
  cases m' with
  | nil => exact absurd halike hb
  | cons c rest' =>
    obtain ⟨k', b'⟩ := c
    refine ⟨k', b', rest', rfl, ?_⟩
    by_contra hlt
    obtain ⟨-, hrest', -⟩ := Memory.wf_cons h'
    rw [Memory.readByte, if_neg (by omega), Memory.readByte_rest hrest' (by omega)] at halike
    exact hb halike

/-- Settles O18, by induction on one list: the first indices are each no greater than the other, so
they agree, then their bytes do, and what is left reads alike. -/
theorem canonicalMemoriesAreEqual : Obligations.CanonicalMemoriesAreEqual := by
  intro capacity m
  induction m with
  | nil =>
    intro m' h h' halike
    cases m' with
    | nil => rfl
    | cons c rest' =>
      obtain ⟨_, _, _, hnil, -⟩ := Memory.head_le_of_reads_alike h' h (halike c.1).symm
      cases hnil
  | cons c rest ih =>
    obtain ⟨k, b⟩ := c
    intro m' h h' halike
    obtain ⟨k', b', rest', rfl, hle⟩ := Memory.head_le_of_reads_alike h h' (halike k)
    obtain ⟨_, _, _, hcons, hge⟩ := Memory.head_le_of_reads_alike h' h (halike k').symm
    cases hcons
    obtain rfl : k = k' := Nat.le_antisymm hge hle
    obtain ⟨-, hrest, hwf⟩ := Memory.wf_cons h
    obtain ⟨-, hrest', hwf'⟩ := Memory.wf_cons h'
    obtain rfl : b = b' := by simpa [Memory.readByte] using halike k
    have hsame : ∀ i, Memory.readByte rest i = Memory.readByte rest' i := by
      intro i
      by_cases hi : i ≤ k
      · rw [Memory.readByte_rest hrest hi, Memory.readByte_rest hrest' hi]
      · have hne : k ≠ i := by omega
        simpa [Memory.readByte, hne] using halike i
    rw [ih rest' hwf hwf' hsame]

end Sys2Proof.Machine

/-!
PROOFS. The host's side (spec/70_reset_and_hazards.md sections 1 and 2): construction and the first
step after it, the inspections, the bytes that the Loader places, and the calls between steps.
-/

namespace Sys2Proof.Machine

/-! ### Construction (R362; 10_state.md R36) -/

/-- All that `construct` can answer. -/
theorem construct_eq_some {c : Config} {e : Emulator} :
    construct c = some e ↔ c.Legal ∧ e = ⟨State.init c, true⟩ := by
  unfold construct
  split
  next hlegal =>
    rw [Option.some.injEq]
    exact ⟨fun h => ⟨hlegal, h.symm⟩, fun h => h.2.symm⟩
  next hnot => exact ⟨nofun, fun h => absurd h.1 hnot⟩

/-- Settles O19: the state is `State.init`, field by field. -/
theorem constructionGivesResetState : Obligations.ConstructionGivesResetState := by
  refine ⟨fun c hlegal => ?_, fun c hnot => if_neg hnot, ?_⟩
  · exact ⟨State.init c, construct_eq_some.mpr ⟨hlegal, rfl⟩, rfl, rfl, State.readReg_init c,
      fun _ => rfl⟩
  · exact construct_eq_some.mpr ⟨by decide, rfl⟩

/-- Settles O20: an empty list is canonical. -/
theorem constructionMeetsInvariant : Obligations.ConstructionMeetsInvariant := by
  intro c e h
  obtain ⟨hlegal, rfl⟩ := construct_eq_some.mp h
  exact ⟨hlegal, Memory.nil_wf c.memCapacity⟩

/-! ### The first step, and a step whose bytes are given (40_step_cycle.md R140 to R143) -/

theorem Memory.readBytes_nil (i n : Nat) : Memory.readBytes [] i n = 0 := by
  induction n with
  | zero => rfl
  | succ n ih =>
    rw [Memory.readBytes_succ, ih, Memory.readByte, Memory.unlisted]
    simp

/-- Settles O34: four bytes of empty Memory read as the word 0, whose opcode is not supported. -/
theorem zeroedMemoryStopsTheHart : Obligations.ZeroedMemoryStopsTheHart := by
  intro c e h hcapacity
  obtain ⟨-, rfl⟩ := construct_eq_some.mp h
  have hin : InBounds (State.init c) (State.init c).pc 4 := by
    rw [InBounds, State.init_pc, State.init_config]
    omega
  have hfetch : (State.init c).fetch = .ok 0 := by
    rw [State.fetch_eq_memValue hin, memValue_eq_readBytes, State.init_mem, Memory.readBytes_nil]
    rfl
  exact step_of_decode_error hfetch (decode_of_unsupportedOpcode (by decide))

/-- Four bytes, read as a number, are the bits of the word that they make up (R57). -/
theorem ofNat_readBytes_four (m : Memory) (i : Nat) :
    BitVec.ofNat 32 (m.readBytes i 4) =
      wordOfBytes (m.readByte i) (m.readByte (i + 1)) (m.readByte (i + 2))
        (m.readByte (i + 3)) := by
  apply BitVec.eq_of_toNat_eq
  have hlt : m.readBytes i 4 < 2 ^ 32 := Memory.readBytes_lt m i 4
  rw [BitVec.toNat_ofNat, Nat.mod_eq_of_lt hlt, wordOfBytes]
  simp only [toNat_append_eq_mul_add, Memory.readBytes_succ]
  simp [Memory.readBytes]
  omega

/-- Settles O23: the fetch gives the word of the four bytes, and what decodes is well-formed. -/
theorem stepRunsDecodedInstruction : Obligations.StepRunsDecodedInstruction := by
  intro s i hin hd
  rw [decodeBytes, ← ofNat_readBytes_four, ← memValue_eq_readBytes] at hd
  obtain ⟨hwf, -⟩ := encodeOfDecode _ i hd
  exact ⟨step_of_decode_ok (State.fetch_eq_memValue hin) hd, hwf⟩

/-! ### The inspections (R370 to R372) -/

theorem State.inspectMemory_of_inBounds {s : State} {a : Word} {n : Nat} (hin : InBounds s a n) :
    s.inspectMemory a n =
      .ok ((List.range n).map fun k => s.mem.readByte ((s.index a).toNat + k)) :=
  if_pos (State.inBounds_eq_true_iff.mpr hin)

theorem State.inspectMemory_of_not_inBounds {s : State} {a : Word} {n : Nat}
    (hout : ¬ InBounds s a n) : s.inspectMemory a n = .error (.outOfBounds a n) :=
  if_neg fun h => hout (State.inBounds_eq_true_iff.mp h)

/-- Settles O57: an index of 5 bits is below 32, and the list of a range has a byte for each
index. -/
theorem inspectionsReadTheState : Obligations.InspectionsReadTheState := by
  intro s
  refine ⟨fun r => ?_, fun n hn => if_neg (Nat.not_lt.mpr hn), rfl, fun a n hin => ?_,
    fun a n => State.inspectMemory_of_not_inBounds⟩
  · rw [State.inspectRegister, if_pos r.isLt, BitVec.ofNat_toNat, BitVec.setWidth_eq]
  · refine ⟨_, State.inspectMemory_of_inBounds hin, by simp, fun k hk => ?_⟩
    simp [hk]

/-! ### One segment (R366, R368) -/

theorem fileSlice_length {file : List Byte} {off n : Nat} (h : n = 0 ∨ off + n ≤ file.length) :
    (fileSlice file off n).length = n := by
  rw [fileSlice, List.length_take, List.length_drop]
  omega

theorem fileSlice_getD {file : List Byte} {off n k : Nat} (hk : k < n) (h : off + n ≤ file.length) :
    some ((fileSlice file off n).getD k 0) = file[off + k]? := by
  have hlt : off + k < file.length := by omega
  simp [fileSlice, List.getD, hk, hlt]

/-- The Memory after the copy of `bs` to index 0 and the zeros after it. -/
theorem Memory.readByte_copy_zeros (m : Memory) {bs : List Byte} {n : Nat} (hn : bs.length = n)
    (z j : Nat) : ((m.setBytes 0 bs).setBytes n (List.replicate z 0)).readByte j =
      if j < n then bs.getD j 0 else if j < n + z then 0 else m.readByte j := by
  subst hn
  rw [Memory.readByte_setBytes, Memory.readByte_setBytes, List.length_replicate]
  by_cases hcopied : j < bs.length
  · simp [hcopied]
  · by_cases hzero : j < bs.length + z
    · have hz : j - bs.length < z := by omega
      simp [hcopied, hzero, Nat.le_of_not_lt hcopied, List.getD, hz]
    · simp [hcopied, hzero]

theorem placeSegments_singleton {file : List Byte} {g : Segment} {s t : State}
    (h : placeSegment file g s = some t) : placeSegments file [g] s = .next t := by
  simp only [placeSegments, h]

/-- A file that passes the checks for one segment goes to `placeSegment`. -/
theorem placeImage_singleton {file : List Byte} {g : Segment} {s t : State}
    (hlen : 58 ≤ file.length)
    (htable : fileField file 32 8 + 56 * fileField file 56 2 ≤ file.length)
    (hsegments : loadSegments file (fileField file 32 8) (fileField file 56 2) = [g])
    (hholds : g.filesz = 0 ∨ g.offset + g.filesz ≤ file.length) (hsize : g.filesz ≤ g.memsz)
    (h : placeSegment file g s = some t) : placeImage file s = .next t := by
  have hlen' : ¬ file.length < 58 := Nat.not_lt.mpr hlen
  have htable' := fileHolds_iff.mpr (.inr htable)
  have hholds' := fileHolds_iff.mpr hholds
  have hsize' : ¬ g.memsz < g.filesz := Nat.not_lt.mpr hsize
  simp [placeImage, hlen', htable', hsegments, hholds', hsize', allDisjoint,
    placeSegments_singleton h]

/-- Settles O58: the segment lies at index 0, so that the copy and the zeros are those of
`Memory.readByte_copy_zeros`. -/
theorem loaderPlacesOneSegment : Obligations.LoaderPlacesOneSegment := by
  intro file s off N hlen htable hsegments hholds hcapacity
  have hslice : (fileSlice file off N).length = N := fileSlice_length hholds
  have hplaced : placeSegment file ⟨1, off, s.config.baseOffset.toNat, N, N + 8⟩ s = some { s with
      mem := (s.mem.setBytes 0 (fileSlice file off N)).setBytes N (List.replicate 8 0) } := by
    refine (placeSegment_eq_some (Nat.le_add_right N 8)).mpr ⟨?_, ?_⟩
    · rw [Memory.inRange_iff]
      dsimp only
      omega
    · simp
  have himage := placeImage_singleton hlen htable hsegments hholds (Nat.le_add_right N 8) hplaced
  have hbyte := Memory.readByte_copy_zeros s.mem hslice 8
  refine ⟨_, loadImage_eq_next.mpr ⟨rfl, _, himage, rfl⟩, rfl, rfl, rfl, fun k hk => ?_,
    fun k hk hk8 => ?_, fun k hk => ?_⟩
  · rw [hbyte, if_pos hk]
    exact fileSlice_getD hk (by omega)
  · rw [hbyte, if_neg (Nat.not_lt.mpr hk), if_pos hk8]
  · rw [hbyte, if_neg (by omega), if_neg (Nat.not_lt.mpr hk)]

/-! ### The whole image (R366, R374) -/

/-- Placing segments changes Memory only, and keeps its canonical form. -/
theorem placeSegments_frame {file : List Byte} {gs : List Segment} {s t : State}
    (hsize : ∀ g ∈ gs, g.filesz ≤ g.memsz) (h : placeSegments file gs s = .next t) :
    t.x = s.x ∧ t.pc = s.pc ∧ t.config = s.config ∧ (s.Inv → t.Inv) := by
  induction gs generalizing s with
  | nil =>
    cases h
    exact ⟨rfl, rfl, rfl, id⟩
  | cons g gs ih =>
    obtain ⟨hg, hgs⟩ := List.forall_mem_cons.mp hsize
    rw [placeSegments] at h
    cases hplace : placeSegment file g s with
    | none =>
      rw [hplace] at h
      cases h
    | some u =>
      rw [hplace] at h
      obtain ⟨hx, hpc, hconfig, hinv⟩ := ih hgs h
      obtain ⟨-, hu⟩ := (placeSegment_eq_some hg).mp hplace
      have huInv : s.Inv → u.Inv := fun ⟨hlegal, hwf⟩ => by
        have hwf' := placeSegment_wf hg hplace hwf
        rw [hu] at hwf' ⊢
        exact ⟨hlegal, hwf'⟩
      rw [hu] at hx hpc hconfig
      exact ⟨hx, hpc, hconfig, hinv ∘ huInv⟩

/-- An image that is placed passed every check; of those the later proofs need the sizes. -/
theorem placeImage_next {file : List Byte} {s t : State} (h : placeImage file s = .next t) :
    ∃ gs : List Segment, (∀ g ∈ gs, g.filesz ≤ g.memsz) ∧ placeSegments file gs s = .next t := by
  unfold placeImage at h
  dsimp only at h
  split at h
  · cases h
  split at h
  · cases h
  split at h
  · cases h
  split at h
  · cases h
  next hsize =>
    split at h
    · refine ⟨_, fun g hg => ?_, h⟩
      simp only [List.any_eq_true, decide_eq_true_eq, not_exists, not_and, not_lt] at hsize
      exact hsize g hg
    · cases h

theorem loadImage_frame {file : List Byte} {e e' : Emulator} (h : loadImage file e = .next e') :
    e.fresh = true ∧ e'.fresh = false ∧ e'.state.x = e.state.x ∧ e'.state.pc = e.state.pc ∧
      e'.state.config = e.state.config ∧ (e.state.Inv → e'.state.Inv) := by
  obtain ⟨hfresh, t, himage, rfl⟩ := loadImage_eq_next.mp h
  obtain ⟨gs, hsize, hplaced⟩ := placeImage_next himage
  exact ⟨hfresh, rfl, placeSegments_frame hsize hplaced⟩

/-! ### The host's calls (R374) -/

/-- A call on an emulator that is not fresh: a load gives none, a step is a step, and an inspection
changes nothing. -/
theorem Emulator.afterCall_cases {e e' : Emulator} {c : HostCall} (hfresh : e.fresh = false)
    (h : e.afterCall c = some e') :
    (c = .step ∧ e' = ⟨e.state.afterStep, false⟩) ∨ (c ≠ .step ∧ e' = e) := by
  cases c with
  | loadImage file =>
    rw [Emulator.afterCall, loadImage_not_fresh hfresh] at h
    cases h
  | step =>
    cases h
    exact .inl ⟨rfl, rfl⟩
  | inspectRegister index =>
    cases h
    exact .inr ⟨nofun, rfl⟩
  | inspectPc =>
    cases h
    exact .inr ⟨nofun, rfl⟩
  | inspectMemory address length =>
    cases h
    exact .inr ⟨nofun, rfl⟩

theorem Emulator.afterCalls_of_not_fresh {e e' : Emulator} {calls : List HostCall}
    (hfresh : e.fresh = false) (h : e.afterCalls calls = some e') :
    e'.fresh = false ∧ e'.state = State.afterSteps (calls.count .step) e.state := by
  induction calls generalizing e with
  | nil =>
    cases h
    exact ⟨hfresh, rfl⟩
  | cons c cs ih =>
    rw [Emulator.afterCalls] at h
    cases hc : e.afterCall c with
    | none =>
      rw [hc] at h
      cases h
    | some u =>
      rw [hc] at h
      obtain ⟨rfl, rfl⟩ | ⟨hne, rfl⟩ := Emulator.afterCall_cases hfresh hc
      · rw [List.count_cons_self]
        exact ih rfl h
      · rw [List.count_cons_of_ne hne]
        exact ih hfresh h

/-- Settles O59: the frame of a load, the refusal of a later one, and the calls one by one. -/
theorem loaderWritesMemoryOnly : Obligations.LoaderWritesMemoryOnly :=
  ⟨fun _ _ _ => loadImage_frame, fun _ _ => loadImage_not_fresh,
    fun _ _ _ => Emulator.afterCalls_of_not_fresh⟩

end Sys2Proof.Machine
